-- ==== Sys2Proof/Word.lean ====
section
/-! DEFINITION. The 32-bit value that a command word, a register and a PORT transaction carry (00_scope.md R2, R4). -/

namespace Sys2Proof

/-- A 32-bit value: a command word (R54), a register of the peripheral (R19 to R21), the value of a PORT
transaction (R31). Bit 0 is the least significant bit (R6). -/
abbrev Word := BitVec 32

/-- A 16-bit unsigned value: the operand `imm` (R56) and the two cycle counts (R2). -/
abbrev Half := BitVec 16

/-- A 4-bit prescale code (R2). -/
abbrev Code := BitVec 4

end Sys2Proof
end

