-- ==== Sys2Proof/Syntax.lean ====
section
/-! DEFINITION. The syntax: the two channels, the fourteen commands (30_encoding.md R55; one constructor per row of
spec/opcode_table.json), and the fields of a command word (R54). -/

namespace Sys2Proof

/-- A channel identifier, 0 or 1 (00_scope.md R2; R56: `ch` is always in range). -/
inductive Chan where
  | ch0
  | ch1
  deriving DecidableEq, Repr

/-- The commands. `c` is the channel, `imm` the 16-bit unsigned operand (R56). -/
inductive Instr where
  /-- RUN c, imm: write of endpoint `run` (R111). -/
  | run (c : Chan) (imm : Half)
  /-- POL c, imm: write of endpoint `polarity` (R112). -/
  | pol (c : Chan) (imm : Half)
  /-- PRESC c, imm: write of endpoint `prescale` (R113). -/
  | presc (c : Chan) (imm : Half)
  /-- ENTIRE c, imm: write of endpoint `entirecycles` (R114). -/
  | entire (c : Chan) (imm : Half)
  /-- ACTIVE c, imm: write of endpoint `activecycles` (R115). -/
  | active (c : Chan) (imm : Half)
  /-- FREQ_WR c, imm: write of endpoint `freqperiod`, always rejected (R116). -/
  | freqWr (c : Chan) (imm : Half)
  /-- RD_RUN c (R117). -/
  | rdRun (c : Chan)
  /-- RD_POL c (R118). -/
  | rdPol (c : Chan)
  /-- RD_PRESC c (R119). -/
  | rdPresc (c : Chan)
  /-- RD_ENTIRE c (R120). -/
  | rdEntire (c : Chan)
  /-- RD_ACTIVE c (R121). -/
  | rdActive (c : Chan)
  /-- RD_FREQ c (R122). -/
  | rdFreq (c : Chan)
  /-- SNAPSHOT: read of endpoint `hardware` (R123). -/
  | snapshot
  /-- SHUTDOWN (R124). -/
  | shutdown
  deriving DecidableEq, Repr

/-- The mnemonic of a command, as spec/opcode_table.json spells it. -/
def Instr.mnemonic : Instr → String
  | .run _ _ => "RUN"
  | .pol _ _ => "POL"
  | .presc _ _ => "PRESC"
  | .entire _ _ => "ENTIRE"
  | .active _ _ => "ACTIVE"
  | .freqWr _ _ => "FREQ_WR"
  | .rdRun _ => "RD_RUN"
  | .rdPol _ => "RD_POL"
  | .rdPresc _ => "RD_PRESC"
  | .rdEntire _ => "RD_ENTIRE"
  | .rdActive _ => "RD_ACTIVE"
  | .rdFreq _ => "RD_FREQ"
  | .snapshot => "SNAPSHOT"
  | .shutdown => "SHUTDOWN"

/-- The fields of a command word in the single format C (R54), most significant first. -/
structure CommandFields where
  /-- Bits 31..28. -/
  op : BitVec 4
  /-- Bits 27..25, must be 0. -/
  z1 : BitVec 3
  /-- Bit 24. -/
  ch : BitVec 1
  /-- Bits 23..16, must be 0. -/
  z2 : BitVec 8
  /-- Bits 15..0. -/
  imm : Half
  deriving DecidableEq, Repr

/-- Why a command word is illegal: the five clauses of R57, by name. -/
inductive IllegalReason where
  /-- `op` is 0x0 or 0xF. -/
  | unassignedOp
  /-- `z1 != 0`. -/
  | z1NotZero
  /-- `z2 != 0`. -/
  | z2NotZero
  /-- `imm != 0` in a command that does not use `imm`. -/
  | immNotZero
  /-- `ch != 0` in SNAPSHOT or SHUTDOWN. -/
  | chNotZero
  deriving DecidableEq, Repr

end Sys2Proof
end

