-- ==== Sys2Proof/WellFormed.lean ====
section
/-! DEFINITION. Which command words are well-formed, written from the prose of 30_encoding.md R57 (the decoder is written
from the opcode map R55; that the two agree is stated in the certificates). Every term of `Instr` is encodable by the
types of its operands (a channel of two, a 16-bit operand), so the checks stand on the fields of the word. -/

namespace Sys2Proof

/-- `op` selects a command: it is neither 0x0 nor 0xF (R57). -/
def CommandFields.opAssigned (f : CommandFields) : Bool := f.op != 0x0#4 && f.op != 0xF#4

/-- The command of `op` uses `imm`: operation codes 0x1 to 0x6 (R55, column "imm used"). -/
def CommandFields.usesImm (f : CommandFields) : Bool := decide (0x1#4 ≤ f.op) && decide (f.op ≤ 0x6#4)

/-- The command of `op` uses `ch`: every command but SNAPSHOT (0xD) and SHUTDOWN (0xE) (R55, column "ch used"). -/
def CommandFields.usesChannel (f : CommandFields) : Bool := f.op != 0xD#4 && f.op != 0xE#4

/-- The five checks of R57; a word that fails one is illegal. -/
def CommandFields.wellFormed (f : CommandFields) : Bool :=
  f.opAssigned && f.z1 == 0#3 && f.z2 == 0#8 && (f.usesImm || f.imm == 0#16) && (f.usesChannel || f.ch == 0#1)

end Sys2Proof
end

