-- ==== Sys2Proof/Decode.lean ====
section
/-! DEFINITION. The decoder, total on every 32-bit word, rejecting by name (30_encoding.md R54 to R57), and after it the
encoder (R60). PORT and CMD carry 32-bit values, not byte sequences (20_memory.md R33), so the decoder reads a word. The
encoding is the spec's own, its decision D2 (assumption log 16). -/

namespace Sys2Proof

/-- The fields of a word in format C (R54). -/
def CommandFields.ofWord (w : Word) : CommandFields where
  op := w.extractLsb' 28 4
  z1 := w.extractLsb' 25 3
  ch := w.extractLsb' 24 1
  z2 := w.extractLsb' 16 8
  imm := w.extractLsb' 0 16

/-- `ch = w[24]` selects the channel (R56). -/
def Chan.ofBit (b : BitVec 1) : Chan := if b = 1#1 then .ch1 else .ch0

/-- A command that does not use `imm`: an operand other than 0 makes the word illegal (R57). -/
def CommandFields.withoutImm (f : CommandFields) (i : Instr) : Except IllegalReason Instr :=
  if f.imm = 0#16 then .ok i else .error .immNotZero

/-- A command that uses neither `ch` nor `imm` (R57). -/
def CommandFields.withoutOperands (f : CommandFields) (i : Instr) : Except IllegalReason Instr :=
  if f.ch = 0#1 then f.withoutImm i else .error .chNotZero

/-- The opcode map of R55: the command that `op` selects. -/
def CommandFields.select (f : CommandFields) : Except IllegalReason Instr :=
  match f.op with
  | 0x1#4 => .ok (.run (.ofBit f.ch) f.imm)
  | 0x2#4 => .ok (.pol (.ofBit f.ch) f.imm)
  | 0x3#4 => .ok (.presc (.ofBit f.ch) f.imm)
  | 0x4#4 => .ok (.entire (.ofBit f.ch) f.imm)
  | 0x5#4 => .ok (.active (.ofBit f.ch) f.imm)
  | 0x6#4 => .ok (.freqWr (.ofBit f.ch) f.imm)
  | 0x7#4 => f.withoutImm (.rdRun (.ofBit f.ch))
  | 0x8#4 => f.withoutImm (.rdPol (.ofBit f.ch))
  | 0x9#4 => f.withoutImm (.rdPresc (.ofBit f.ch))
  | 0xA#4 => f.withoutImm (.rdEntire (.ofBit f.ch))
  | 0xB#4 => f.withoutImm (.rdActive (.ofBit f.ch))
  | 0xC#4 => f.withoutImm (.rdFreq (.ofBit f.ch))
  | 0xD#4 => f.withoutOperands .snapshot
  | 0xE#4 => f.withoutOperands .shutdown
  | _ => .error .unassignedOp

/-- The decoder on fields: the must-be-zero fields first, then the opcode map (R57). Which reason is named when several
apply is not observable: every one of them is the status IllegalCommand (60_exceptions.md R134). -/
def CommandFields.decode (f : CommandFields) : Except IllegalReason Instr :=
  if f.z1 ≠ 0#3 then .error .z1NotZero
  else if f.z2 ≠ 0#8 then .error .z2NotZero
  else f.select

/-- The decoder: every 32-bit word is either exactly one command or illegal (R57). -/
def decode (w : Word) : Except IllegalReason Instr := (CommandFields.ofWord w).decode

/-- The word of the fields: each field at its place in format C (R54). -/
def CommandFields.toWord (f : CommandFields) : Word :=
  (f.op.setWidth 32 <<< 28) ||| (f.z1.setWidth 32 <<< 25) ||| (f.ch.setWidth 32 <<< 24)
    ||| (f.z2.setWidth 32 <<< 16) ||| f.imm.setWidth 32

/-- The bit `ch` of a channel (R56). -/
def Chan.toBit : Chan → BitVec 1
  | .ch0 => 0#1
  | .ch1 => 1#1

/-- The fields of a command with operation code `op`, channel bit `ch` and operand `imm`; `z1` and `z2` are 0 (R54). -/
def CommandFields.format (op : BitVec 4) (ch : BitVec 1) (imm : Half) : CommandFields where
  op := op
  z1 := 0#3
  ch := ch
  z2 := 0#8
  imm := imm

/-- The fields of a command, from the opcode map R55; absent operands are 0 (R60). -/
def Instr.fields : Instr → CommandFields
  | .run c imm => .format 0x1#4 c.toBit imm
  | .pol c imm => .format 0x2#4 c.toBit imm
  | .presc c imm => .format 0x3#4 c.toBit imm
  | .entire c imm => .format 0x4#4 c.toBit imm
  | .active c imm => .format 0x5#4 c.toBit imm
  | .freqWr c imm => .format 0x6#4 c.toBit imm
  | .rdRun c => .format 0x7#4 c.toBit 0#16
  | .rdPol c => .format 0x8#4 c.toBit 0#16
  | .rdPresc c => .format 0x9#4 c.toBit 0#16
  | .rdEntire c => .format 0xA#4 c.toBit 0#16
  | .rdActive c => .format 0xB#4 c.toBit 0#16
  | .rdFreq c => .format 0xC#4 c.toBit 0#16
  | .snapshot => .format 0xD#4 0#1 0#16
  | .shutdown => .format 0xE#4 0#1 0#16

/-- The encoder: `(op << 28) | (ch << 24) | imm` (R60). -/
def encode (i : Instr) : Word := i.fields.toWord

/-- The decoder on an instruction whose bits are numbered as spec/opcode_table.json numbers them. Every command is one
32-bit word (R64): bits above `nbits` are 0, and a value that needs more than 32 bits is no command. -/
def decodeTableWord (nbits w : Nat) : Option Instr :=
  if w % 2 ^ nbits < 2 ^ 32 then
    match decode (BitVec.ofNat 32 (w % 2 ^ nbits)) with
    | .ok i => some i
    | .error _ => none
  else none

end Sys2Proof
end

