-- ==== Sys2Proof/Config.lean ====
section
/-! DEFINITION. What is fixed for the machine: the constants the spec fixes, the reset values of 10_state.md R23, and the
launch parameters that `State.reset` takes where the spec leaves them open (assumption log 2 and 3). -/

namespace Sys2Proof.Config

/-- `BASE_CLOCK_HZ` (00_scope.md R2). -/
def baseClockHz : Nat := 24000000

/-- The prescale code of a channel at reset and after `set_enabled`: the divide-by-240 code (R23, R80). -/
def defaultCode : Code := 2#4

/-! Masks of 30_encoding.md R51. -/

/-- The 20 meaningful field bits of the control register. -/
def ctrlFieldsMask : Word := 0x01FF83FF#32

/-- The two busy flags, bits 28 and 29. -/
def busyMask : Word := 0x30000000#32

/-- The ten padding and reserved bits: 14..10, 27..25, 31..30 (R59). -/
def paddingMask : Word := 0xCE007C00#32

/-! What `State.reset` takes for the open parameters of 00_scope.md R3.
DESIGN CHOICE, unsafe (assumption log 2): no source gives a value, and no statement rests on one. -/

/-- `CTRL_ADDR` in `State.reset` (DESIGN CHOICE, log 2). -/
def resetCtrlAddr : Nat := 0

/-- `PERIOD_ADDR[0]` in `State.reset` (DESIGN CHOICE, log 2). -/
def resetPeriodAddr0 : Nat := 4

/-- `PERIOD_ADDR[1]` in `State.reset` (DESIGN CHOICE, log 2). -/
def resetPeriodAddr1 : Nat := 8

/-- `PINMUX_ADDR` in `State.reset` (DESIGN CHOICE, log 2). -/
def resetPinmuxAddr : Nat := 12

/-- `POLL_LIMIT` in `State.reset`: the reference behaviour, no bound (DESIGN CHOICE, log 2). -/
def resetPollLimit : Option Nat := none

/-- What each register of the peripheral holds in `State.reset` (DESIGN CHOICE, log 3). -/
def resetRegister : Word := 0#32

/-- What each flag of the peripheral holds in `State.reset` (DESIGN CHOICE, log 3). -/
def resetFlag : Bool := false

end Sys2Proof.Config
end

