-- ==== Sys2Proof/Machine/State.lean ====
section
/-! DEFINITION. The state of the block and of the peripheral behind PORT, as plain data, and the state after reset
(10_state.md; 20_memory.md R37; 70_reset_and_hazards.md R150 to R152). -/

namespace Sys2Proof.Machine

/-! ## The block's registers (10_state.md R10) -/

/-- The operating mode of a channel (R10). -/
inductive Mode where
  | continuous
  | singlePulse
  deriving DecidableEq, Repr

/-- The logical configuration of one channel: the ten fields of R10. -/
structure ChannelState where
  /-- "immutable identity" (R11). -/
  channelId : Chan
  /-- Channel enable. -/
  enabled : Bool
  /-- "false = active-low, true = active-high". -/
  polarity : Bool
  /-- "clock permitted to run into the channel". -/
  clockGating : Bool
  /-- Operating mode. -/
  mode : Mode
  /-- "a one-shot trigger meaningful only in SinglePulse mode". -/
  pulseStart : Bool
  /-- "main clock bypasses the divider/period logic entirely". -/
  bypass : Bool
  /-- The prescale code; all 16 values can be held (R12). -/
  prescaleCode : Code
  /-- "duty portion"; no relation to `totalCycles` is kept (R13). -/
  activeCycles : Half
  /-- "total period portion". -/
  totalCycles : Half
  deriving DecidableEq, Repr

/-! ## Phase (10_state.md R16) -/

/-- Which cycle count a period command updates: ENTIRE the total, ACTIVE the active count (R114, R115). -/
inductive CycleField where
  | total
  | active
  deriving DecidableEq, Repr

/-- The local variable `old` of R114 and R115: what a HardwareTimeout puts back, and into which field. -/
structure Rollback where
  field : CycleField
  old : Half
  deriving DecidableEq, Repr

/-- What a SNAPSHOT in progress has read so far, up to the register named (R123). -/
inductive SnapshotReads where
  | ctrl (c : Word)
  | period0 (c p0 : Word)
  | period1 (c p0 p1 : Word)
  deriving DecidableEq, Repr

/-- The phase of the block (R16 (b)). The spec's `Exec` is three phases here, so that the peripheral can move between any two
PORT transactions of a command (R41, assumption log 8). -/
inductive Phase where
  /-- No command in progress. -/
  | idle
  /-- The accepted command word `w` is being carried out. -/
  | exec (w : Word)
  /-- The period protocol is busy-waiting for channel `c` and has made `k` reads of the control register so far. -/
  | poll (c : Chan) (k : Nat) (r : Rollback)
  /-- The last poll showed channel `c` ready: the period write is the block's next step (R105 (ii)). -/
  | periodWrite (c : Chan) (r : Rollback)
  /-- SNAPSHOT has made the reads of `p`, the next read is the block's next step (R123). -/
  | snapshot (p : SnapshotReads)
  deriving DecidableEq, Repr

/-! ## Register contents, unpacked (42_control_codec.md R92, R95) -/

/-- The seven packed components of one channel (R92). -/
structure ChannelFields where
  prescaleCode : Code
  enabled : Bool
  polarity : Bool
  clockGating : Bool
  mode : Mode
  pulseStart : Bool
  bypass : Bool
  deriving DecidableEq, Repr

/-- What `unpack` gives (R92). -/
structure ControlFields where
  ch0Fields : ChannelFields
  ch1Fields : ChannelFields
  ch0Busy : Bool
  ch1Busy : Bool
  deriving DecidableEq, Repr

/-- What `period_unpack` gives (R95). -/
structure PeriodFields where
  activeCycles : Half
  totalCycles : Half
  deriving DecidableEq, Repr

/-! ## Results on CMD (30_encoding.md R63, 60_exceptions.md R130) -/

/-- The status of a command (R130). -/
inductive Status where
  | ok
  | parseError
  | invalidRange
  | hardwareTimeout
  | illegalCommand
  deriving DecidableEq, Repr

/-- The result of `output_frequency` (R71). -/
inductive Frequency where
  /-- A whole number of hertz, carried in 32 bits (R63). -/
  | hz (n : BitVec 32)
  /-- The result for a reserved code: a constructor of its own, not a number (R71, D11). -/
  | undefined
  deriving DecidableEq, Repr

/-- The record SNAPSHOT returns (R123). -/
structure Snapshot where
  ctrlRaw : Word
  ctrl : ControlFields
  periodRaw0 : Word
  periodRaw1 : Word
  period0 : PeriodFields
  period1 : PeriodFields
  pinmuxRaw : Word
  deriving DecidableEq, Repr

/-- The value of a result: a sum type (R63). -/
inductive Value where
  /-- No value: every write command, every error. -/
  | unit
  /-- RD_RUN, RD_POL: 0 or 1. -/
  | bit (b : BitVec 1)
  /-- RD_PRESC: 0..15. -/
  | code (v : Code)
  /-- RD_ENTIRE, RD_ACTIVE: 0..65535. -/
  | count (v : Half)
  /-- RD_FREQ. -/
  | frequency (f : Frequency)
  /-- SNAPSHOT. -/
  | snapshot (r : Snapshot)
  deriving DecidableEq, Repr

/-- What an error was about: the column "information recorded" of R130. It is not part of the result and the block
stores none of it; it stands in the observation log only. -/
inductive ErrorInfo where
  /-- The status is OK. -/
  | nothing
  /-- The offending operand (ParseError, InvalidRange). -/
  | operand (imm : Half)
  /-- The channel (HardwareTimeout). -/
  | channel (c : Chan)
  /-- The word (IllegalCommand). -/
  | word (w : Word)
  deriving DecidableEq, Repr

/-- One completed command: its result, the pair `(status, value)` of R63, and what an error was about. -/
structure Completion where
  status : Status
  value : Value
  info : ErrorInfo
  deriving DecidableEq, Repr

/-- One PORT transaction: the address, and the value returned or written (20_memory.md R31). -/
inductive PortTx where
  | read (addr : Nat) (v : Word)
  | write (addr : Nat) (v : Word)
  deriving DecidableEq, Repr

/-! ## Parameters and the peripheral -/

/-- The open parameters of 00_scope.md R3, fixed for the life of the machine. -/
structure Params where
  ctrlAddr : Nat
  periodAddr0 : Nat
  periodAddr1 : Nat
  pinmuxAddr : Nat
  /-- `POLL_LIMIT`: `none` is the reference behaviour, `some n` the bounded one. -/
  pollLimit : Option Nat
  deriving DecidableEq, Repr

/-- The environment behind PORT (20_memory.md R37). -/
structure Peripheral where
  /-- `HW_CTRL`. -/
  ctrl : Word
  /-- `HW_PERIOD[0]`. -/
  period0 : Word
  /-- `HW_PERIOD[1]`. -/
  period1 : Word
  /-- `HW_PINMUX`. -/
  pinmux : Word
  /-- `HW_BUSY[0]`. -/
  busy0 : Bool
  /-- `HW_BUSY[1]`. -/
  busy1 : Bool
  /-- The peripheral has accepted a period write of channel 0, so it may raise that channel's flag (R39). -/
  written0 : Bool
  /-- The same for channel 1. -/
  written1 : Bool
  deriving DecidableEq, Repr

/-- A move of the peripheral's own (R37, R39, R40). -/
inductive PeripheralMove where
  /-- The Ready to Busy move of a channel (R39). -/
  | raiseBusy (c : Chan)
  /-- The Busy to Ready move of a channel (R40). -/
  | dropBusy (c : Chan)
  /-- The ten padding and reserved bits of the control register come to read as those of `v` (R37, U14). -/
  | drawPadding (v : Word)
  /-- The pin-multiplexing register comes to read as `v` (R37). -/
  | drawPinmux (v : Word)
  deriving DecidableEq, Repr

/-- Whose turn it is (00_scope.md R5). -/
inductive Turn where
  /-- The block makes one step. -/
  | block
  /-- The peripheral makes a move. -/
  | peripheral (m : PeripheralMove)
  /-- The host constructs (resets) the block (70_reset_and_hazards.md R150). -/
  | construct
  deriving DecidableEq, Repr

/-! ## Stops -/

/-- Faults: there is none. The block has no traps: an error is a status returned as a result (R130, R136), PORT accesses
always succeed (R31, R139), a stuck busy flag is an infinite run (R103). -/
inductive Fault where
  deriving DecidableEq, Repr

/-- Refusals: what the spec gives no meaning. -/
inductive Refusal where
  /-- Raised by a refused arm of `exec`: an instruction that has no meaning yet. Safe: nothing is proved of it. -/
  | notModelled (mnemonic : String)
  /-- Raised by the step when a command is presented while `alive` is false: "the model refuses it, returns no status, and
  makes no PORT access" (44_controller.md R110, D16, U17). Safe: no run goes on. -/
  | commandAfterShutdown
  /-- Raised by the step when the parameters are none the spec allows: addresses that are not pairwise distinct multiples
  of 4, or a POLL_LIMIT of 0 (00_scope.md R3, 20_memory.md R34 "outside this spec (refuse)"). Safe: no run goes on. -/
  | parametersOutsideSpec
  /-- Raised by the step when the period write of a channel whose busy flag is set would be made: "the model gives it no
  meaning (refuse)" (R39, U6). No sound state reaches it, since the block writes only after a poll that showed the flag clear
  and the flag then stays clear (43_period_protocol.md R102). Safe: no run goes on. -/
  | periodWriteWhileBusy
  deriving DecidableEq, Repr

/-! ## The state -/

/-- The state of the whole system: the block, the peripheral, the parameters, and what the outside world does and sees. -/
structure State where
  /-- The open parameters (R3). -/
  params : Params
  /-- `ch[0]` (R10). -/
  ch0 : ChannelState
  /-- `ch[1]` (R10). -/
  ch1 : ChannelState
  /-- True from construction until a SHUTDOWN command completes (R16 (a)). -/
  alive : Bool
  /-- The phase (R16 (b)). -/
  phase : Phase
  /-- The peripheral (R37). -/
  hw : Peripheral
  /-- The command words the host presents on CMD, in the order they are served (R4, R17, R42). -/
  cmds : List Word
  /-- The index `i` of the current command (R17). -/
  index : Nat
  /-- Who moves next; when it is empty, the block (R5, R41). -/
  sched : List Turn
  /-- The results returned on CMD, oldest first: an observation, no command reads it (R18, R130). -/
  results : List Completion
  /-- The PORT transactions issued, oldest first: an observation (R41, R45). -/
  portLog : List PortTx
  deriving DecidableEq, Repr

/-! ## Reset (10_state.md R23) -/

/-- A ChannelState as construction makes it (R23; the values other than `channelId` and `enabled` are the spec's decision
D5, assumption log 4). -/
def ChannelState.reset (c : Chan) : ChannelState where
  channelId := c
  enabled := false
  polarity := true
  clockGating := true
  mode := .continuous
  pulseStart := false
  bypass := false
  prescaleCode := Config.defaultCode
  activeCycles := 0#16
  totalCycles := 0#16

/-- The machine right after construction, for ANY parameters and ANY contents of the peripheral: "parameters of the
launch" (R3, R23, R152). Construction issues no PORT transaction (R151). -/
def State.launch (p : Params) (hw : Peripheral) : State where
  params := p
  ch0 := ChannelState.reset .ch0
  ch1 := ChannelState.reset .ch1
  alive := true
  phase := .idle
  hw := hw
  cmds := []
  index := 0
  sched := []
  results := []
  portLog := []

/-- The parameters of `State.reset` (DESIGN CHOICE, assumption log 2). -/
def Params.reset : Params where
  ctrlAddr := Config.resetCtrlAddr
  periodAddr0 := Config.resetPeriodAddr0
  periodAddr1 := Config.resetPeriodAddr1
  pinmuxAddr := Config.resetPinmuxAddr
  pollLimit := Config.resetPollLimit

/-- The peripheral of `State.reset` (DESIGN CHOICE, assumption log 3). -/
def Peripheral.reset : Peripheral where
  ctrl := Config.resetRegister
  period0 := Config.resetRegister
  period1 := Config.resetRegister
  pinmux := Config.resetRegister
  busy0 := Config.resetFlag
  busy1 := Config.resetFlag
  written0 := Config.resetFlag
  written1 := Config.resetFlag

/-- The machine right after reset: `State.launch` at the launch parameters the log names. What is stated about reset is
stated of `State.launch` at every parameter. -/
def State.reset : State := State.launch Params.reset Peripheral.reset

end Sys2Proof.Machine
end

