-- ==== Sys2Proof/Machine/Operands.lean ====
section
/-! DEFINITION. The operand forms: how `imm` is checked and used by each write command (30_encoding.md R56), type before
range (60_exceptions.md R135). A failed check names the status; nothing has been mutated yet (R110). -/

namespace Sys2Proof.Machine

/-- RUN accepts an "integer `<2`": every `imm` decodes, `imm >= 2` is InvalidRange (R56, R111). -/
def runOperand (imm : Half) : Except Status Bool :=
  if imm.toNat ≥ 2 then .error .invalidRange else .ok (imm == 1#16)

/-- POL accepts an "unsigned byte": `imm > 255` is ParseError, else `imm != 0` (R56, R112). -/
def polOperand (imm : Half) : Except Status Bool :=
  if imm.toNat > 255 then .error .parseError else .ok (imm != 0#16)

/-- PRESC accepts an "unsigned byte 0..15": `imm > 255` is ParseError, else `imm > 15` is InvalidRange, else the code is
`imm[3:0]` (R56, R113). -/
def prescOperand (imm : Half) : Except Status Code :=
  if imm.toNat > 255 then .error .parseError
  else if imm.toNat > 15 then .error .invalidRange
  else .ok (imm.extractLsb' 0 4)

/-- FREQ_WR: the operand is ignored and the write always rejected (R56, R116). -/
def freqWrOperand (_imm : Half) : Except Status Unit := .error .invalidRange

end Sys2Proof.Machine
end

