-- ==== Sys2Proof/Machine/Channel.lean ====
section
/-! DEFINITION. The five setters of a ChannelState (41_channel_state.md). Each changes the fields its rule assigns and no
others (R85). -/

namespace Sys2Proof.Machine

/-- `set_enabled(s, value)`: also resets polarity, clock gating, mode and prescale code, whatever `value` is (R80). -/
def ChannelState.setEnabled (s : ChannelState) (value : Bool) : ChannelState :=
  { s with
    enabled := value
    polarity := true
    clockGating := true
    mode := .continuous
    prescaleCode := Config.defaultCode }

/-- `set_polarity(s, value)` (R81). -/
def ChannelState.setPolarity (s : ChannelState) (value : Bool) : ChannelState := { s with polarity := value }

/-- `set_prescale(s, code)`: InvalidRange above 15, reserved codes stored like any other (R82). -/
def ChannelState.setPrescale (s : ChannelState) (code : Nat) : Except Status ChannelState :=
  if code > 15 then .error .invalidRange else .ok { s with prescaleCode := BitVec.ofNat 4 code }

/-- `set_total_cycles(s, value)` (R83). -/
def ChannelState.setTotalCycles (s : ChannelState) (value : Half) : ChannelState := { s with totalCycles := value }

/-- `set_active_cycles(s, value)` (R84). -/
def ChannelState.setActiveCycles (s : ChannelState) (value : Half) : ChannelState := { s with activeCycles := value }

/-- The cycle count a period command updates (R114, R115). -/
def ChannelState.cycles (s : ChannelState) : CycleField → Half
  | .total => s.totalCycles
  | .active => s.activeCycles

/-- Write the cycle count a period command updates (R83, R84). -/
def ChannelState.setCycles (s : ChannelState) : CycleField → Half → ChannelState
  | .total, v => s.setTotalCycles v
  | .active, v => s.setActiveCycles v

/-- Put the old cycle count back (R114, R115: "no partial mutation"). -/
def ChannelState.restore (s : ChannelState) (r : Rollback) : ChannelState := s.setCycles r.field r.old

end Sys2Proof.Machine
end

