-- ==== Sys2Proof/Machine/Codec.lean ====
section
/-! DEFINITION. ControlRegisterCodec and period packing: pure shift-and-mask functions (42_control_codec.md; bit positions of
30_encoding.md R50 to R53, which are the spec's decisions D3 and D4, assumption log 17). -/

namespace Sys2Proof.Machine

/-- `b2n` as a 32-bit value (00_scope.md R6). -/
def b2w (b : Bool) : Word := if b then 1#32 else 0#32

/-- `mode_bit`: Continuous is 0, SinglePulse is 1 (R53, R90). -/
def Mode.bit : Mode → Bool
  | .continuous => false
  | .singlePulse => true

/-- The mode a bit stands for (R92). -/
def Mode.ofBit (b : Bool) : Mode := if b then .singlePulse else .continuous

/-- The seven packed components of a ChannelState (R90 reads these and no others). -/
def ChannelState.fields (s : ChannelState) : ChannelFields where
  prescaleCode := s.prescaleCode
  enabled := s.enabled
  polarity := s.polarity
  clockGating := s.clockGating
  mode := s.mode
  pulseStart := s.pulseStart
  bypass := s.bypass

/-- The ten meaningful bits of one channel, from its seven components, in a 32-bit value (R90). -/
def ChannelFields.pack (f : ChannelFields) : Word :=
  f.prescaleCode.setWidth 32
    ||| (b2w f.enabled <<< 4)
    ||| (b2w f.polarity <<< 5)
    ||| (b2w f.clockGating <<< 6)
    ||| (b2w f.mode.bit <<< 7)
    ||| (b2w f.pulseStart <<< 8)
    ||| (b2w f.bypass <<< 9)

/-- `field_of` (R90). -/
def fieldOf (s : ChannelState) : Word := s.fields.pack

/-- `pack'` of R93: `pack` on unpacked components. -/
def packFields (f0 f1 : ChannelFields) : Word := f0.pack ||| (f1.pack <<< 15)

/-- `pack(s0, s1)`, the value the block writes to the control register (R91). -/
def pack (s0 s1 : ChannelState) : Word := fieldOf s0 ||| (fieldOf s1 <<< 15)

/-- `fields_of`, on the ten bits of a channel starting at bit `at0` of `raw` (R92). -/
def fieldsAt (raw : Word) (at0 : Nat) : ChannelFields where
  prescaleCode := raw.extractLsb' at0 4
  enabled := raw.getLsbD (at0 + 4)
  polarity := raw.getLsbD (at0 + 5)
  clockGating := raw.getLsbD (at0 + 6)
  mode := .ofBit (raw.getLsbD (at0 + 7))
  pulseStart := raw.getLsbD (at0 + 8)
  bypass := raw.getLsbD (at0 + 9)

/-- `unpack(raw)`: channel 0's field at bit 0, channel 1's at bit 15, the busy flags at bits 28 and 29 (R92). -/
def unpack (raw : Word) : ControlFields where
  ch0Fields := fieldsAt raw 0
  ch1Fields := fieldsAt raw 15
  ch0Busy := raw.getLsbD 28
  ch1Busy := raw.getLsbD 29

/-- `period_pack(a, t)`: active cycles in the low half, total cycles in the high half (R94). -/
def periodPack (a t : Half) : Word := a.setWidth 32 ||| (t.setWidth 32 <<< 16)

/-- `period_unpack(raw)` (R95). -/
def periodUnpack (raw : Word) : PeriodFields where
  activeCycles := raw.extractLsb' 0 16
  totalCycles := raw.extractLsb' 16 16

end Sys2Proof.Machine
end

