-- ==== Sys2Proof/Machine/Flags.lean ====
section
/-! DEFINITION. The one-bit statuses (10_state.md R18): the busy flags of the peripheral as bits 28 and 29 of the control
register, and the status codes. The block has no condition codes. -/

namespace Sys2Proof.Machine

/-- The number of a channel. -/
def chanIndex : Chan → Nat
  | .ch0 => 0
  | .ch1 => 1

/-- The busy bit of channel `c` in a value read from the control register: bit `28 + c`, 1 = busy (R101). -/
def busyBit (c : Chan) (v : Word) : Bool := v.getLsbD (28 + chanIndex c)

/-- `b2n` as one bit: what RD_RUN and RD_POL return (R117, R118). -/
def b2n (b : Bool) : BitVec 1 := if b then 1#1 else 0#1

/-- The numeric code of a status (R130; the numbers are the spec's decision D17). -/
def Status.code : Status → Nat
  | .ok => 0
  | .parseError => 1
  | .invalidRange => 2
  | .hardwareTimeout => 3
  | .illegalCommand => 4

end Sys2Proof.Machine
end

