-- ==== Sys2Proof/Machine/Ops.lean ====
section
/-! DEFINITION. The named operations over the state: the channel records, the peripheral, the PORT primitives, the end of a
command (success or error), the control-register rewrite, the period protocol, the moves of the outside world. -/

namespace Sys2Proof.Machine

/-! ## Channel records -/

/-- Read of `ch[c]` (00_scope.md R6). -/
def State.chan (s : State) : Chan → ChannelState
  | .ch0 => s.ch0
  | .ch1 => s.ch1

/-- Write of `ch[c]`. -/
def State.setChan (s : State) (c : Chan) (x : ChannelState) : State :=
  match c with
  | .ch0 => { s with ch0 := x }
  | .ch1 => { s with ch1 := x }

/-! ## The peripheral (20_memory.md R37 to R40) -/

/-- `HW_BUSY[c]`. -/
def Peripheral.busy (p : Peripheral) : Chan → Bool
  | .ch0 => p.busy0
  | .ch1 => p.busy1

/-- Set `HW_BUSY[c]`. -/
def Peripheral.setBusy (p : Peripheral) (c : Chan) (b : Bool) : Peripheral :=
  match c with
  | .ch0 => { p with busy0 := b }
  | .ch1 => { p with busy1 := b }

/-- `HW_PERIOD[c]`. -/
def Peripheral.period (p : Peripheral) : Chan → Word
  | .ch0 => p.period0
  | .ch1 => p.period1

/-- A period write of channel `c` has been accepted. -/
def Peripheral.written (p : Peripheral) : Chan → Bool
  | .ch0 => p.written0
  | .ch1 => p.written1

/-- What a read of the control register returns: `HW_CTRL` with bits 28 and 29 replaced by the busy flags (R37). -/
def Peripheral.ctrlRead (p : Peripheral) : Word :=
  (p.ctrl &&& ~~~Config.busyMask) ||| (b2w p.busy0 <<< 28) ||| (b2w p.busy1 <<< 29)

/-- What a write of the control register does: every bit but 28 and 29 is stored (R38). -/
def Peripheral.storeCtrl (p : Peripheral) (v : Word) : Peripheral := { p with ctrl := v &&& ~~~Config.busyMask }

/-- What a write of period register `c` does: the value is stored, and from then on the peripheral may raise the channel's
busy flag (R39). -/
def Peripheral.storePeriod (p : Peripheral) (c : Chan) (v : Word) : Peripheral :=
  match c with
  | .ch0 => { p with period0 := v, written0 := true }
  | .ch1 => { p with period1 := v, written1 := true }

/-- What a move does to the peripheral. A busy flag is raised only after a period write of its channel (R39) and may be dropped at
any time (R40); the padding bits and the pin-multiplexing register may come to read as anything (R37, U14). A raise that is
not possible changes nothing (assumption log 6, log 7, log 9). -/
def Peripheral.move (p : Peripheral) : PeripheralMove → Peripheral
  | .raiseBusy c => if p.written c then p.setBusy c true else p
  | .dropBusy c => p.setBusy c false
  | .drawPadding v => { p with ctrl := (p.ctrl &&& ~~~Config.paddingMask) ||| (v &&& Config.paddingMask) }
  | .drawPinmux v => { p with pinmux := v }

/-! ## Parameters (00_scope.md R3) -/

/-- `PERIOD_ADDR[c]`. -/
def Params.periodAddr (p : Params) : Chan → Nat
  | .ch0 => p.periodAddr0
  | .ch1 => p.periodAddr1

/-- The four addresses. -/
def Params.addrs (p : Params) : List Nat := [p.ctrlAddr, p.periodAddr0, p.periodAddr1, p.pinmuxAddr]

/-- The parameters are ones the spec allows: pairwise distinct multiples of 4, and `n >= 1` in `Some n` (R3, R34). -/
def Params.wellFormed (p : Params) : Bool :=
  decide p.addrs.Nodup && p.addrs.all (fun a => a % 4 == 0) && p.pollLimit != some 0

/-! ## PORT (20_memory.md R31) -/

/-- Note a PORT transaction in the observation log. -/
def State.logTx (s : State) (tx : PortTx) : State := { s with portLog := s.portLog ++ [tx] }

/-- A read transaction at address `a` that returns `v`: it changes no state of the peripheral (R37). -/
def State.portRead (s : State) (a : Nat) (v : Word) : Word × State := (v, s.logTx (.read a v))

/-- `MemRead(CTRL_ADDR, 4)`. -/
def State.readCtrl (s : State) : Word × State := s.portRead s.params.ctrlAddr s.hw.ctrlRead

/-- `MemRead(PERIOD_ADDR[c], 4)`. -/
def State.readPeriod (s : State) (c : Chan) : Word × State := s.portRead (s.params.periodAddr c) (s.hw.period c)

/-- `MemRead(PINMUX_ADDR, 4)`. -/
def State.readPinmux (s : State) : Word × State := s.portRead s.params.pinmuxAddr s.hw.pinmux

/-- `MemWrite(CTRL_ADDR, 4, v)` (R38). -/
def State.writeCtrl (s : State) (v : Word) : State :=
  { s with hw := s.hw.storeCtrl v }.logTx (.write s.params.ctrlAddr v)

/-- `MemWrite(PERIOD_ADDR[c], 4, v)` (R39). -/
def State.writePeriod (s : State) (c : Chan) (v : Word) : State :=
  { s with hw := s.hw.storePeriod c v }.logTx (.write (s.params.periodAddr c) v)

/-- `ctrl_write()`: one write of the whole register, no read, no wait, no comparison (44_controller.md R125). -/
def State.ctrlWrite (s : State) : State := s.writeCtrl (pack s.ch0 s.ch1)

/-! ## The end of a command (R63, 60_exceptions.md R136) -/

/-- Return a result on CMD: the block goes back to `Idle` and the command index advances, whatever the status (R17). -/
def State.finish (s : State) (r : Completion) : State :=
  { s with phase := .idle, index := s.index + 1, results := s.results ++ [r] }

/-- `return (OK, v)`. -/
def complete (v : Value) (s : State) : Host.Outcome State Fault Refusal := .next (s.finish ⟨.ok, v, .nothing⟩)

/-- `raise E(info)`: the error ends the command at this point; "nothing is saved, no mode changes, no mask changes, control
goes nowhere", the result is `(status, unit)` (R136). There is no handler and so no return from one (R137). -/
def raise (e : Status) (info : ErrorInfo) (s : State) : Host.Outcome State Fault Refusal :=
  .next (s.finish ⟨e, .unit, info⟩)

/-! ## The period protocol (43_period_protocol.md) -/

/-- Step (ii), *write*: one write of the period register, then the command ends with OK (R105). A write while the flag is set
has no meaning (R39). -/
def periodWrite (c : Chan) (s : State) : Host.Outcome State Fault Refusal :=
  if s.hw.busy c then .refused .periodWriteWhileBusy
  else complete .unit (s.writePeriod c (periodPack (s.chan c).activeCycles (s.chan c).totalCycles))

/-- Step (iii), *timeout*: the cycle count gets its old value back and the command ends with HardwareTimeout; no write
(R104, R114, R133). -/
def pollTimeout (c : Chan) (r : Rollback) (s : State) : Host.Outcome State Fault Refusal :=
  raise .hardwareTimeout (.channel c) (s.setChan c ((s.chan c).restore r))

/-- One turn of `write_period`'s loop after `k` reads (R100, R105): timeout if the bound is reached; else one fresh read of
the control register; if the channel's busy bit is set, the phase is `Poll(c, k+1)` and the next step polls again; if it is
clear, the period write is the block's next step, with no other transaction between (R102). -/
def pollOnce (c : Chan) (k : Nat) (r : Rollback) (s : State) : Host.Outcome State Fault Refusal :=
  if s.params.pollLimit = some k then pollTimeout c r s
  else
    let (v, s1) := s.readCtrl
    .next { s1 with phase := if busyBit c v then .poll c (k + 1) r else .periodWrite c r }

/-- The shared body of ENTIRE and ACTIVE: keep the old count, set the new one, start `write_period` with no read made yet
(R114, R115). -/
def periodCommand (field : CycleField) (c : Chan) (imm : Half) (s : State) : Host.Outcome State Fault Refusal :=
  pollOnce c 0 ⟨field, (s.chan c).cycles field⟩ (s.setChan c ((s.chan c).setCycles field imm))

/-! ## The host and the turns -/

/-- Construction (reset) of the block by the host, at any time (70_reset_and_hazards.md R150): every piece of the block's
state gets its reset value; no PORT transaction (R151); the peripheral is left alone (R152). A command in progress is dropped
without a result, and the command index starts at 0 again (assumption log 11). -/
def State.construct (s : State) : State :=
  { s with
    ch0 := ChannelState.reset .ch0
    ch1 := ChannelState.reset .ch1
    alive := true
    phase := .idle
    index := 0 }

/-- The protocol has seen channel `c` ready and has not written yet. -/
def State.awaitsWrite (s : State) (c : Chan) : Bool :=
  match s.phase with
  | .periodWrite d _ => d == c
  | _ => false

/-- The peripheral can make the move now: "a flag that read 0 stays 0 until this write" (43_period_protocol.md R102,
assumption log 7). -/
def State.allows (s : State) : PeripheralMove → Bool
  | .raiseBusy c => !s.awaitsWrite c
  | .dropBusy _ | .drawPadding _ | .drawPinmux _ => true

/-- A turn that is not the block's. A move that is not possible changes nothing. -/
def State.outsideMove (s : State) : Turn → State
  | .block => s
  | .peripheral m => { s with hw := if s.allows m then s.hw.move m else s.hw }
  | .construct => s.construct

/-- CMD accepts the next command word: it leaves the host's list and the phase is `Exec` (R4, R16). -/
def State.accept (s : State) (w : Word) (rest : List Word) : State := { s with cmds := rest, phase := .exec w }

/-- An illegal word: IllegalCommand, no state change, no PORT access (R57, R134). -/
def illegalCommand (w : Word) (s : State) : Host.Outcome State Fault Refusal := raise .illegalCommand (.word w) s

/-- A machine whose very next step accepts and carries out `w`: the word is first in the host's list, the block is alive
and idle, and it is the block's turn. -/
def State.present (s : State) (w : Word) : State :=
  { s with cmds := w :: s.cmds, phase := .idle, alive := true, sched := [] }

end Sys2Proof.Machine
end

