-- ==== Sys2Proof/Machine/ControlCommands.lean ====
section
/-! DEFINITION. The control-register write commands RUN, POL, PRESC (44_controller.md R111 to R113): check the operand, mutate
the channel's record, rewrite the whole control register. -/

namespace Sys2Proof.Machine

/-- RUN c, imm (R111). -/
def execRun (c : Chan) (imm : Half) (s : State) : Host.Outcome State Fault Refusal :=
  match runOperand imm with
  | .error e => raise e (.operand imm) s
  | .ok value => complete .unit (s.setChan c ((s.chan c).setEnabled value)).ctrlWrite

/-- POL c, imm (R112). -/
def execPol (c : Chan) (imm : Half) (s : State) : Host.Outcome State Fault Refusal :=
  match polOperand imm with
  | .error e => raise e (.operand imm) s
  | .ok value => complete .unit (s.setChan c ((s.chan c).setPolarity value)).ctrlWrite

/-- PRESC c, imm (R113); reserved codes are accepted, stored and written. -/
def execPresc (c : Chan) (imm : Half) (s : State) : Host.Outcome State Fault Refusal :=
  match prescOperand imm with
  | .error e => raise e (.operand imm) s
  | .ok code =>
    match (s.chan c).setPrescale code.toNat with
    | .error e => raise e (.operand imm) s
    | .ok x => complete .unit (s.setChan c x).ctrlWrite

end Sys2Proof.Machine
end

