-- ==== Sys2Proof/Machine/PeriodCommands.lean ====
section
/-! DEFINITION. The period write commands ENTIRE and ACTIVE (44_controller.md R114, R115) and the rejected write of
`freqperiod`, FREQ_WR (R116). -/

namespace Sys2Proof.Machine

/-- ENTIRE c, imm (R114): every operand is accepted. -/
def execEntire (c : Chan) (imm : Half) (s : State) : Host.Outcome State Fault Refusal := periodCommand .total c imm s

/-- ACTIVE c, imm (R115): every operand is accepted. -/
def execActive (c : Chan) (imm : Half) (s : State) : Host.Outcome State Fault Refusal := periodCommand .active c imm s

/-- FREQ_WR c, imm (R116): always InvalidRange, the operand is not examined. -/
def execFreqWr (_c : Chan) (imm : Half) (s : State) : Host.Outcome State Fault Refusal :=
  match freqWrOperand imm with
  | .error e => raise e (.operand imm) s
  | .ok _ => complete .unit s

end Sys2Proof.Machine
end

