-- ==== Sys2Proof/Machine/Frequency.lean ====
section
/-! DEFINITION. PrescalerTable and FrequencyCalculator (40_prescaler_frequency.md). -/

namespace Sys2Proof.Machine

/-- The result of `divisor_of` (R70): a divisor, or Reserved, which is neither an error nor a number. -/
inductive Divisor where
  | divisor (n : Nat)
  | reserved
  deriving DecidableEq, Repr

/-- `divisor_of(code)`: the whole table of R70. -/
def divisorOf (code : Code) : Divisor :=
  match code with
  | 0#4 => .divisor 120
  | 1#4 => .divisor 180
  | 2#4 => .divisor 240
  | 3#4 => .divisor 360
  | 4#4 => .divisor 480
  | 8#4 => .divisor 12000
  | 9#4 => .divisor 24000
  | 10#4 => .divisor 36000
  | 11#4 => .divisor 48000
  | 12#4 => .divisor 72000
  | 15#4 => .divisor 1
  | _ => .reserved

/-- `output_frequency(code, total_cycles)` (R71): two truncating divisions, left to right (R72, the spec's decision D10);
`total_cycles + 1` does not wrap. The quotient is at most 24_000_000 (R73), so 32 bits hold it. -/
def outputFrequency (code : Code) (totalCycles : Half) : Frequency :=
  match divisorOf code with
  | .reserved => .undefined
  | .divisor d => .hz (BitVec.ofNat 32 (Config.baseClockHz / d / (totalCycles.toNat + 1)))

end Sys2Proof.Machine
end

