-- ==== Sys2Proof/Machine/ReadCommands.lean ====
section
/-! DEFINITION. The read commands RD_RUN to RD_FREQ (44_controller.md R117 to R122): logical state from the ChannelState, never
from the registers; no PORT access, no state change, no failure. -/

namespace Sys2Proof.Machine

/-- RD_RUN c (R117). -/
def execRdRun (c : Chan) (s : State) : Host.Outcome State Fault Refusal := complete (.bit (b2n (s.chan c).enabled)) s

/-- RD_POL c (R118): 1 = active-high, 0 = active-low. -/
def execRdPol (c : Chan) (s : State) : Host.Outcome State Fault Refusal := complete (.bit (b2n (s.chan c).polarity)) s

/-- RD_PRESC c (R119): the code, not the divisor. -/
def execRdPresc (c : Chan) (s : State) : Host.Outcome State Fault Refusal := complete (.code (s.chan c).prescaleCode) s

/-- RD_ENTIRE c (R120). -/
def execRdEntire (c : Chan) (s : State) : Host.Outcome State Fault Refusal := complete (.count (s.chan c).totalCycles) s

/-- RD_ACTIVE c (R121). -/
def execRdActive (c : Chan) (s : State) : Host.Outcome State Fault Refusal := complete (.count (s.chan c).activeCycles) s

/-- RD_FREQ c (R122): Undefined comes with status OK, it is not an error. -/
def execRdFreq (c : Chan) (s : State) : Host.Outcome State Fault Refusal :=
  complete (.frequency (outputFrequency (s.chan c).prescaleCode (s.chan c).totalCycles)) s

end Sys2Proof.Machine
end

