-- ==== Sys2Proof/Machine/SystemCommands.lean ====
section
/-! DEFINITION. The diagnostic and lifecycle commands SNAPSHOT and SHUTDOWN (44_controller.md R123, R124). -/

namespace Sys2Proof.Machine

/-- SNAPSHOT (R123): four reads, each register once, in the rule's order; no wait, no state mutation. This is the first read, of
the control register; each of the others is a step of its own, so the peripheral may move between them (R41, R123). -/
def execSnapshot (s : State) : Host.Outcome State Fault Refusal :=
  let (c, s1) := s.readCtrl
  .next { s1 with phase := .snapshot (.ctrl c) }

/-- The next read of a SNAPSHOT in progress; after the fourth, the command ends with the record of what was read (R123). -/
def snapshotStep (p : SnapshotReads) (s : State) : Host.Outcome State Fault Refusal :=
  match p with
  | .ctrl c =>
    let (p0, s1) := s.readPeriod .ch0
    .next { s1 with phase := .snapshot (.period0 c p0) }
  | .period0 c p0 =>
    let (p1, s1) := s.readPeriod .ch1
    .next { s1 with phase := .snapshot (.period1 c p0 p1) }
  | .period1 c p0 p1 =>
    let (m, s1) := s.readPinmux
    complete
      (.snapshot
        { ctrlRaw := c
          ctrl := unpack c
          periodRaw0 := p0
          periodRaw1 := p1
          period0 := periodUnpack p0
          period1 := periodUnpack p1
          pinmuxRaw := m })
      s1

/-- SHUTDOWN (R124): both channels disabled with their resets, one control write, then `alive <- false`. -/
def execShutdown (s : State) : Host.Outcome State Fault Refusal :=
  let s1 := s.setChan .ch0 ((s.chan .ch0).setEnabled false)
  let s2 := s1.setChan .ch1 ((s1.chan .ch1).setEnabled false)
  complete .unit { s2.ctrlWrite with alive := false }

end Sys2Proof.Machine
end

