-- ==== Sys2Proof/Machine/Dispatch.lean ====
section
/-! DEFINITION. One arm per command: its meaning (44_controller.md R111 to R124). -/

namespace Sys2Proof.Machine

/-- What a decoded command does, once CMD has accepted it from a living block (R110 steps 2 to 5). -/
def exec (i : Instr) (s : State) : Host.Outcome State Fault Refusal :=
  match i with
  | .run c imm => Sys2Proof.Machine.execRun c imm s
  | .pol c imm => Sys2Proof.Machine.execPol c imm s
  | .presc c imm => Sys2Proof.Machine.execPresc c imm s
  | .entire c imm => Sys2Proof.Machine.execEntire c imm s
  | .active c imm => Sys2Proof.Machine.execActive c imm s
  | .freqWr c imm => Sys2Proof.Machine.execFreqWr c imm s
  | .rdRun c => Sys2Proof.Machine.execRdRun c s
  | .rdPol c => Sys2Proof.Machine.execRdPol c s
  | .rdPresc c => Sys2Proof.Machine.execRdPresc c s
  | .rdEntire c => Sys2Proof.Machine.execRdEntire c s
  | .rdActive c => Sys2Proof.Machine.execRdActive c s
  | .rdFreq c => Sys2Proof.Machine.execRdFreq c s
  | .snapshot => Sys2Proof.Machine.execSnapshot s
  | .shutdown => Sys2Proof.Machine.execShutdown s

end Sys2Proof.Machine
end

