-- ==== Sys2Proof/Machine/Sequencer.lean ====
section
/-! DEFINITION. The block's own step: accept a command, carry it out, or go on with the one in progress (10_state.md R16, R17;
43_period_protocol.md R105; 44_controller.md R110). -/

namespace Sys2Proof.Machine

/-- Carry out an accepted word: refused when the block is not alive, IllegalCommand when it decodes to nothing, else the
command's meaning (R110). -/
def carryOut (w : Word) (s : State) : Host.Outcome State Fault Refusal :=
  if s.alive then
    match decode w with
    | .ok i => exec i s
    | .error _ => illegalCommand w s
  else .refused .commandAfterShutdown

/-- One step of the block: idle, it accepts the next word on CMD and carries it out, or waits if there is none (R150); while
a command is in progress, it makes that command's next PORT transaction, and no command is accepted (R42). At most one PORT
transaction is made in a step (R41). -/
def blockStep (s : State) : Host.Outcome State Fault Refusal :=
  match s.phase with
  | .idle =>
    match s.cmds with
    | [] => .next s
    | w :: rest => carryOut w (s.accept w rest)
  | .exec w => carryOut w s
  | .poll c k r => pollOnce c k r s
  | .periodWrite c _ => periodWrite c s
  | .snapshot p => snapshotStep p s

/-- One turn of the system: the first of `sched` says whose it is, the block's when it is empty (00_scope.md R5, R41). -/
def turnStep (s : State) : Host.Outcome State Fault Refusal :=
  match s.sched with
  | [] => blockStep s
  | .block :: rest => blockStep { s with sched := rest }
  | t :: rest => .next ({ s with sched := rest }.outsideMove t)

end Sys2Proof.Machine
end

