-- ==== Sys2Proof/Machine/Step.lean ====
section
/-! DEFINITION. The step of the machine, and the machine whose next step runs a given command word. -/

namespace Sys2Proof.Machine

/-- One step: refused for parameters outside the spec (00_scope.md R3, 20_memory.md R34), else one turn of the system. -/
def step (s : State) : Host.Outcome State Fault Refusal :=
  if s.params.wellFormed then turnStep s else .refused .parametersOutsideSpec

/-- `s` with the command word `w` presented on CMD so that the very next step runs it: bits above `nbits` are 0; a command
is one 32-bit word (30_encoding.md R64). How a program comes to run: assumption log 5. -/
def State.withFetchWord (s : State) (nbits w : Nat) : State := s.present (BitVec.ofNat 32 (w % 2 ^ nbits))

end Sys2Proof.Machine
end

