-- ==== Sys2Proof/Machine/Endpoints.lean ====
section
/-! DEFINITION. The text endpoints at their interface boundary (00_scope.md section 3; 30_encoding.md R61): which command each
maps to, the integer type its write accepts, what its read returns. They are outside the block; parsing text into an integer is
out of scope, so a write starts from what the parser has made of the text. -/

namespace Sys2Proof.Machine

/-- The seven endpoints (R61). -/
inductive Endpoint where
  | run
  | polarity
  | prescale
  | entirecycles
  | activecycles
  | freqperiod
  | hardware
  deriving DecidableEq, Repr

/-- The command a read of the endpoint issues (R61, column "read command"). -/
def Endpoint.readCommand (e : Endpoint) (c : Chan) : Instr :=
  match e with
  | .run => .rdRun c
  | .polarity => .rdPol c
  | .prescale => .rdPresc c
  | .entirecycles => .rdEntire c
  | .activecycles => .rdActive c
  | .freqperiod => .rdFreq c
  | .hardware => .snapshot

/-- The command a write of the endpoint issues (R61, column "write command"); `hardware` has none. -/
def Endpoint.writeCommand (e : Endpoint) (c : Chan) (imm : Half) : Option Instr :=
  match e with
  | .run => some (.run c imm)
  | .polarity => some (.pol c imm)
  | .prescale => some (.presc c imm)
  | .entirecycles => some (.entire c imm)
  | .activecycles => some (.active c imm)
  | .freqperiod => some (.freqWr c imm)
  | .hardware => none

/-- How many values the integer type of a write has: an unsigned byte for `polarity` and `prescale`, 16 bits for the others,
`freqperiod` too, although its write is always rejected: "values above 65535" fail in the front end, "before any command word
exists" (R56, R61, R131). `hardware` has no write command. -/
def Endpoint.typeBound : Endpoint → Option Nat
  | .polarity | .prescale => some 256
  | .run | .entirecycles | .activecycles | .freqperiod => some 65536
  | .hardware => none

/-- What the parser of the front end makes of the written text; how it reads text is out of scope (N14). -/
inductive Written where
  /-- A natural number. -/
  | number (n : Nat)
  /-- Text "not decodable" as one (R61). -/
  | text (s : String)
  deriving DecidableEq, Repr

/-- The operand of the command, if what was written is of an integer type with `bound` values (R131). It is the number itself:
no number is cut down to 16 bits. -/
def Written.operand (w : Written) (bound : Nat) : Option Half :=
  match w with
  | .number n => if n < bound then some (BitVec.ofNat 16 n) else none
  | .text _ => none

/-- What the front end makes of a write (R61). -/
inductive FrontEnd where
  /-- It issues a command. -/
  | issue (i : Instr)
  /-- What was written is not of the expected type: it "raises ParseError itself ... and then issues no command". The offending
  operand is what R130 says is recorded. -/
  | parseError (w : Written)
  /-- There is no write command (`hardware`): what happens is open (U11, N13). -/
  | noCommand
  deriving DecidableEq, Repr

/-- A write to an endpoint of channel `c` (R56, R61, R131). -/
def Endpoint.write (e : Endpoint) (c : Chan) (w : Written) : FrontEnd :=
  match e.typeBound with
  | none => .noCommand
  | some bound =>
    match w.operand bound with
    | none => .parseError w
    | some imm =>
      match e.writeCommand c imm with
      | some i => .issue i
      | none => .noCommand

/-- What a write answers to its caller (R61, R136). How the bytes accepted are counted is out of scope (N15). -/
inductive WriteReply where
  /-- "the number of bytes accepted on success". -/
  | accepted
  /-- "an invalid-input condition". -/
  | invalidInput
  deriving DecidableEq, Repr

/-- What the spec leaves to the front end, as arguments of the model (D11, U10, U11, N13). -/
structure FrontEndParams where
  /-- The text of an undefined frequency (D11, U10). -/
  undefinedText : String
  /-- The text of the diagnostic dump (U11). -/
  dumpText : Snapshot → String
  /-- The reaction to a write to `hardware` (U11, N13). -/
  hardwareWrite : WriteReply

/-- The reply the status of the issued command leads to: an error is reported "as an invalid-input condition" (R136). -/
def Status.writeReply : Status → WriteReply
  | .ok => .accepted
  | .parseError | .invalidRange | .hardwareTimeout | .illegalCommand => .invalidInput

/-- The reply to a write: that of the command's status `st` where a command was issued, a rejection where the front end raised
ParseError itself (R61, R136). -/
def FrontEnd.reply (fe : FrontEndParams) (st : Status) : FrontEnd → WriteReply
  | .issue _ => st.writeReply
  | .parseError _ => .invalidInput
  | .noCommand => fe.hardwareWrite

/-- The text a read returns for a command's value: the number in decimal (D24) and a newline, with `hz` between them for a
frequency (R61); the texts the spec leaves open are the front end's. A write, or an error, has no value to show. -/
def Value.render (fe : FrontEndParams) : Value → Option String
  | .bit b => some (toString b.toNat ++ "\n")
  | .code v => some (toString v.toNat ++ "\n")
  | .count v => some (toString v.toNat ++ "\n")
  | .frequency (.hz n) => some (toString n.toNat ++ "hz\n")
  | .frequency .undefined => some fe.undefinedText
  | .snapshot r => some (fe.dumpText r)
  | .unit => none

end Sys2Proof.Machine
end

