-- ==== Sys2Proof/Safety.lean ====
section
/-! DEFINITION. The terms in which claims speak of runs: how a command ends, which states are sound, when the mirror and the
peripheral agree, what the peripheral receives. -/

namespace Sys2Proof.Machine

/-! ## How a command ends -/

/-- The other channel. -/
def otherChan : Chan → Chan
  | .ch0 => .ch1
  | .ch1 => .ch0

/-- `t` is `s` after a command that returned the result `r` on CMD: the block is idle, the results have advanced by this one
result, and the host's list, the turns and the parameters are untouched (R63, R136). It says nothing of the channel records,
`alive`, the peripheral and the PORT log. That the index advances with each result is stated of every step, by
`Obligations.IndexAdvancesWithEachResult`. -/
structure State.Completes (s t : State) (r : Completion) : Prop where
  phase : t.phase = .idle
  results : t.results = s.results ++ [r]
  cmds : t.cmds = s.cmds
  sched : t.sched = s.sched
  params : t.params = s.params

/-- `t` is `s` after a command that returned `r` and did nothing else: no channel record, not `alive`, nothing of the
peripheral has changed, and no PORT transaction was issued (R136). -/
structure State.OnlyReturns (s t : State) (r : Completion) : Prop extends State.Completes s t r where
  ch0 : t.ch0 = s.ch0
  ch1 : t.ch1 = s.ch1
  alive : t.alive = s.alive
  hw : t.hw = s.hw
  portLog : t.portLog = s.portLog

/-- It is the block's turn, and `rest` is what is left of the turns after it. -/
def State.BlocksTurn (s : State) (rest : List Turn) : Prop := (s.sched = [] ∧ rest = []) ∨ s.sched = .block :: rest

/-- The block is idle, its parameters are ones the spec allows, and `w` is the next word on CMD, before `rest`. -/
structure State.Fetches (s : State) (w : Word) (rest : List Word) : Prop where
  params : s.params.wellFormed = true
  phase : s.phase = .idle
  cmds : s.cmds = w :: rest

/-- The next turn is a construction by the host. -/
def State.ConstructsNext (s : State) : Prop := ∃ rest, s.sched = .construct :: rest

/-- The step from `s` to `t` carries out the command word `w`: it accepts it, or it is the word accepted before. -/
def State.CarriesOut (s t : State) (w : Word) : Prop := (s.phase = .idle ∧ s.cmds = w :: t.cmds) ∨ s.phase = .exec w

/-- The phase belongs to a period command of channel `c` that has not ended: the protocol polls, or its write is next. -/
def Phase.InPeriodCommand (p : Phase) (c : Chan) : Prop := (∃ k r, p = .poll c k r) ∨ ∃ r, p = .periodWrite c r

/-! ## Sound states -/

/-- The PORT transactions a SNAPSHOT in progress has made, in order (R123). -/
def SnapshotReads.txs (ps : Params) : SnapshotReads → List PortTx
  | .ctrl c => [.read ps.ctrlAddr c]
  | .period0 c p0 => [.read ps.ctrlAddr c, .read ps.periodAddr0 p0]
  | .period1 c p0 p1 => [.read ps.ctrlAddr c, .read ps.periodAddr0 p0, .read ps.periodAddr1 p1]

/-- The last PORT transaction was a read of the control register that showed channel `c` ready (R102). -/
def State.SawReady (s : State) (c : Chan) : Prop :=
  ∃ l v, s.portLog = l ++ [.read s.params.ctrlAddr v] ∧ busyBit c v = false

/-- The fields no command ever writes to anything but their reset value (10_state.md R24). -/
structure ChannelState.KeepsDefaults (x : ChannelState) : Prop where
  clockGating : x.clockGating = true
  mode : x.mode = .continuous
  pulseStart : x.pulseStart = false
  bypass : x.bypass = false

/-- The phase fits the rest of the state: at least one poll has been made, and no more than POLL_LIMIT (R100, R104); a period
write is next only right after a read that showed the channel ready, and the channel still is (R102); what a SNAPSHOT holds is
what it has just read (R123). No command is left between its acceptance and its first transaction. -/
def State.PhaseSound (s : State) : Prop :=
  match s.phase with
  | .idle => True
  | .exec _ => False
  | .poll _ k _ => 1 ≤ k ∧ ∀ n, s.params.pollLimit = some n → k ≤ n
  | .periodWrite c _ => s.hw.busy c = false ∧ s.SawReady c
  | .snapshot p => ∃ l, s.portLog = l ++ p.txs s.params

/-- The sound states: `channel_id` is hard-wired (R11), the fields without a setter keep their defaults (R24), the phase is
sound, and a command is in progress only while the block is alive (R110). -/
structure State.Sound (s : State) : Prop where
  id0 : s.ch0.channelId = .ch0
  id1 : s.ch1.channelId = .ch1
  keeps0 : s.ch0.KeepsDefaults
  keeps1 : s.ch1.KeepsDefaults
  phase : s.PhaseSound
  alive : s.phase ≠ .idle → s.alive = true

/-! ## The mirror and the peripheral (44_controller.md R126) -/

/-- The 20 field bits of the peripheral's control register equal `pack(ch[0], ch[1])`. -/
def State.ControlCoherent (s : State) : Prop := s.hw.ctrl &&& Config.ctrlFieldsMask = pack s.ch0 s.ch1

/-- The record of channel `c` with the count of an unfinished period command taken back: what the channel's configuration is
as long as that command has not ended (R114). -/
def State.settled (s : State) (c : Chan) : ChannelState :=
  match s.phase with
  | .poll d _ r | .periodWrite d r => if d = c then (s.chan c).restore r else s.chan c
  | _ => s.chan c

/-- The peripheral's period register `c` equals `period_pack` of the channel's settled counts. -/
def State.PeriodCoherent (s : State) (c : Chan) : Prop :=
  s.hw.period c = periodPack (s.settled c).activeCycles (s.settled c).totalCycles

/-! ## What the peripheral receives (20_memory.md R41) -/

/-- The transaction is a write. -/
def PortTx.isWrite : PortTx → Bool
  | .read _ _ => false
  | .write _ _ => true

/-- The address of a transaction. -/
def PortTx.addr : PortTx → Nat
  | .read a _ => a
  | .write a _ => a

/-- What one PORT transaction does to the peripheral: a read nothing, a write what the register at its address does. -/
def Peripheral.receive (ps : Params) (p : Peripheral) : PortTx → Peripheral
  | .read _ _ => p
  | .write a v =>
    if a = ps.ctrlAddr then p.storeCtrl v
    else if a = ps.periodAddr .ch0 then p.storePeriod .ch0 v
    else if a = ps.periodAddr .ch1 then p.storePeriod .ch1 v
    else p

/-! ## Two machines that differ in what their registers hold (42_control_codec.md R96) -/

/-- The phase without the words a SNAPSHOT has read so far. -/
def Phase.withoutWords : Phase → Phase
  | .snapshot (.ctrl _) => .snapshot (.ctrl 0#32)
  | .snapshot (.period0 _ _) => .snapshot (.period0 0#32 0#32)
  | .snapshot (.period1 _ _ _) => .snapshot (.period1 0#32 0#32 0#32)
  | p => p

/-- The result without the record of a SNAPSHOT. -/
def Completion.withoutWords (r : Completion) : Completion :=
  match r.value with
  | .snapshot _ => { r with value := .unit }
  | _ => r

/-- The two machines agree on everything but what the control, period and pin-multiplexing registers hold, and what SNAPSHOT
has shown of that: the same logical state, busy flags, pending and returned commands, and the same writes. -/
structure State.Alike (s s' : State) : Prop where
  params : s'.params = s.params
  chan : ∀ c, s'.chan c = s.chan c
  alive : s'.alive = s.alive
  phase : s'.phase.withoutWords = s.phase.withoutWords
  busy : ∀ c, s'.hw.busy c = s.hw.busy c
  written : ∀ c, s'.hw.written c = s.hw.written c
  cmds : s'.cmds = s.cmds
  index : s'.index = s.index
  sched : s'.sched = s.sched
  results : s'.results.map Completion.withoutWords = s.results.map Completion.withoutWords
  writes : s'.portLog.filter PortTx.isWrite = s.portLog.filter PortTx.isWrite

end Sys2Proof.Machine
end

