-- ==== Sys2Proof/Certificates/Slice0/Obligations.lean ====
section
/-! DEFINITION. The statements about the machine, from the numbered rules of spec/. Where a clause rests on a decision the
spec marks as its own, or on a log entry of the model, the docstring says so. -/

open Sys2Proof Sys2Proof.Machine

/-! ## Encoding -/

/-- Decoding an encoded command gives it back, every operand at every value. The encoding is the spec's own decision D2
(assumption log 16). -/
def Obligations.DecodeOfEncodeIsIdentity : Prop := ∀ i : Instr, decode (encode i) = .ok i

/-- Every legal word is the encoding of the command it decodes to, so each word has one meaning. The encoding is the spec's own
decision D2 (assumption log 16). -/
def Obligations.EncodeOfDecodeIsIdentity : Prop := ∀ (w : Word) (i : Instr), decode w = .ok i → encode i = w

/-- A word decodes to the command of a row of the opcode table exactly when `w & mask == match`, and the operands are `w[24]`
and `w[15:0]`: the table of 30_encoding.md section 2, the spec's own decision D2 (assumption log 16). -/
def Obligations.WordSelectsCommandByMaskAndMatch : Prop :=
  ∀ w : Word,
    (∀ row ∈ [("RUN", 0x10000000#32, 0xFEFF0000#32), ("POL", 0x20000000#32, 0xFEFF0000#32),
        ("PRESC", 0x30000000#32, 0xFEFF0000#32), ("ENTIRE", 0x40000000#32, 0xFEFF0000#32),
        ("ACTIVE", 0x50000000#32, 0xFEFF0000#32), ("FREQ_WR", 0x60000000#32, 0xFEFF0000#32),
        ("RD_RUN", 0x70000000#32, 0xFEFFFFFF#32), ("RD_POL", 0x80000000#32, 0xFEFFFFFF#32),
        ("RD_PRESC", 0x90000000#32, 0xFEFFFFFF#32), ("RD_ENTIRE", 0xA0000000#32, 0xFEFFFFFF#32),
        ("RD_ACTIVE", 0xB0000000#32, 0xFEFFFFFF#32), ("RD_FREQ", 0xC0000000#32, 0xFEFFFFFF#32),
        ("SNAPSHOT", 0xD0000000#32, 0xFFFFFFFF#32), ("SHUTDOWN", 0xE0000000#32, 0xFFFFFFFF#32)],
      (∃ i, decode w = .ok i ∧ i.mnemonic = row.1) ↔ w &&& row.2.2 = row.2.1) ∧
    ∀ i, decode w = .ok i →
      i.fields.op = w.extractLsb' 28 4 ∧ i.fields.ch = w.extractLsb' 24 1 ∧ i.fields.imm = w.extractLsb' 0 16

/-- The illegal words are exactly those of 30_encoding.md section 2 (the spec's decisions D2, D25). -/
def Obligations.IllegalWordsAreExactlyThoseListed : Prop :=
  ∀ w : Word, (∃ r, decode w = .error r) ↔
    (w.extractLsb' 28 4 = 0x0#4 ∨ w.extractLsb' 28 4 = 0xF#4 ∨ w.extractLsb' 25 3 ≠ 0#3 ∨ w.extractLsb' 16 8 ≠ 0#8 ∨
      (0x7#4 ≤ w.extractLsb' 28 4 ∧ w.extractLsb' 0 16 ≠ 0#16) ∨
      ((w.extractLsb' 28 4 = 0xD#4 ∨ w.extractLsb' 28 4 = 0xE#4) ∧ w.extractLsb' 24 1 ≠ 0#1))

/-- Words written out from the encoding tables decode to the commands they stand for (decision D2). -/
def Obligations.WrittenOutWordsDecode : Prop :=
  decode 0x11000001#32 = .ok (.run .ch1 1#16) ∧ decode 0x200000FF#32 = .ok (.pol .ch0 255#16) ∧
  decode 0x31000009#32 = .ok (.presc .ch1 9#16) ∧ decode 0x40000063#32 = .ok (.entire .ch0 99#16) ∧
  decode 0x5100FFFF#32 = .ok (.active .ch1 65535#16) ∧ decode 0x600003E8#32 = .ok (.freqWr .ch0 1000#16) ∧
  decode 0x71000000#32 = .ok (.rdRun .ch1) ∧ decode 0xC0000000#32 = .ok (.rdFreq .ch0) ∧
  decode 0xD0000000#32 = .ok .snapshot ∧ decode 0xE0000000#32 = .ok .shutdown

/-! ## Prescaler table and frequency -/

/-- `divisor_of`, the whole table. -/
def Obligations.DivisorTableIsAsListed : Prop :=
  (List.range 16).map (fun n => divisorOf (BitVec.ofNat 4 n)) =
    [.divisor 120, .divisor 180, .divisor 240, .divisor 360, .divisor 480, .reserved, .reserved, .reserved,
      .divisor 12000, .divisor 24000, .divisor 36000, .divisor 48000, .divisor 72000, .reserved, .reserved, .divisor 1]

/-- `output_frequency`: Undefined on a reserved code; otherwise the exact quotient, in either grouping, not wrapped to 32
bits. That the divisions truncate is the spec's decision D10. -/
def Obligations.OutputFrequencyIsTheTruncatedQuotient : Prop :=
  ∀ (code : Code) (total : Half),
    (divisorOf code = .reserved → outputFrequency code total = .undefined) ∧
    ∀ d, divisorOf code = .divisor d → ∃ n, outputFrequency code total = .hz n ∧
      n.toNat = 24000000 / d / (total.toNat + 1) ∧ n.toNat = 24000000 / (d * (total.toNat + 1))

/-- The bounds of the frequency: at most 24_000_000; 0 exactly when `d * (total_cycles + 1) > 24_000_000`; Undefined exactly
on the five reserved codes (the spec derives this; decision D10). -/
def Obligations.OutputFrequencyBounds : Prop :=
  ∀ (code : Code) (total : Half),
    (outputFrequency code total = .undefined ↔ code ∈ [5#4, 6#4, 7#4, 13#4, 14#4]) ∧
    ∀ n, outputFrequency code total = .hz n → n.toNat ≤ 24000000 ∧
      ∃ d, divisorOf code = .divisor d ∧ (n = 0#32 ↔ 24000000 < d * (total.toNat + 1))

/-! ## ChannelState setters -/

/-- `set_enabled` writes its five fields and keeps the other five, whether it enables or disables. -/
def Obligations.SetEnabledResetsFourFields : Prop :=
  ∀ (s : ChannelState) (value : Bool),
    s.setEnabled value =
      ⟨s.channelId, value, true, true, .continuous, s.pulseStart, s.bypass, 2#4, s.activeCycles, s.totalCycles⟩

/-- The other four setters change only their own field, and a failing one changes nothing. -/
def Obligations.SettersChangeOnlyTheirOwnField : Prop :=
  ∀ (s : ChannelState) (b : Bool) (n : Nat) (v : Half),
    s.setPolarity b = { s with polarity := b } ∧
    (n ≤ 15 → s.setPrescale n = .ok { s with prescaleCode := BitVec.ofNat 4 n }) ∧
    (15 < n → s.setPrescale n = .error .invalidRange) ∧
    s.setTotalCycles v = { s with totalCycles := v } ∧
    s.setActiveCycles v = { s with activeCycles := v }

/-! ## Codec -/

/-- `pack`, bit by bit: the layout of the control register, with every other bit 0. The order of the sub-fields and their bit
values are the spec's decisions D3 and D4 (assumption log 17). -/
def Obligations.PackedControlRegisterBits : Prop :=
  ∀ (s0 s1 : ChannelState) (n : Nat), (pack s0 s1).getLsbD n =
    if n < 4 then s0.prescaleCode.getLsbD n
    else if n = 4 then s0.enabled
    else if n = 5 then s0.polarity
    else if n = 6 then s0.clockGating
    else if n = 7 then s0.mode == .singlePulse
    else if n = 8 then s0.pulseStart
    else if n = 9 then s0.bypass
    else if n < 15 then false
    else if n < 19 then s1.prescaleCode.getLsbD (n - 15)
    else if n = 19 then s1.enabled
    else if n = 20 then s1.polarity
    else if n = 21 then s1.clockGating
    else if n = 22 then s1.mode == .singlePulse
    else if n = 23 then s1.pulseStart
    else if n = 24 then s1.bypass
    else false

/-- `unpack(pack(s0, s1))` gives the packed fields of both records and both busy flags false (the spec derives this from its
layout, decisions D3, D4). -/
def Obligations.UnpackOfPackGivesTheFields : Prop :=
  ∀ s0 s1 : ChannelState, unpack (pack s0 s1) = ⟨s0.fields, s1.fields, false, false⟩

/-- `pack'(unpack(raw)) = raw & 0x01FF83FF` for every raw value (the spec derives this; decisions D3, D4). -/
def Obligations.PackOfUnpackMasksTheFields : Prop :=
  ∀ raw : Word, packFields (unpack raw).ch0Fields (unpack raw).ch1Fields = raw &&& 0x01FF83FF#32

/-- The period register image: active cycles in the low 16 bits, total cycles in the high 16 bits; injective, and every 32-bit
value is an image. -/
def Obligations.PeriodImageIsTheTwoHalves : Prop :=
  (∀ a t : Half, (periodPack a t).extractLsb' 0 16 = a ∧ (periodPack a t).extractLsb' 16 16 = t) ∧
  (∀ a t a' t' : Half, periodPack a t = periodPack a' t' → a = a' ∧ t = t') ∧
  ∀ raw : Word, ∃ a t : Half, periodPack a t = raw

/-- `period_unpack` and `period_pack` are inverse to each other (the spec derives this). -/
def Obligations.PeriodUnpackIsTheInverse : Prop :=
  (∀ a t : Half, periodUnpack (periodPack a t) = ⟨a, t⟩) ∧
  ∀ raw : Word, periodPack (periodUnpack raw).activeCycles (periodUnpack raw).totalCycles = raw

/-! ## The peripheral behind PORT -/

/-- A read of the control register shows `HW_CTRL` with bits 28 and 29 replaced by the busy flags; a write stores every bit but
28 and 29 and leaves the rest of the peripheral alone; a write of a period register stores the value, lets the peripheral raise
that channel's flag from then on, and leaves everything else of the peripheral as before, both flags too (the spec's decision D14;
assumption log 7, 9). -/
def Obligations.RegisterReadsAndWrites : Prop :=
  (∀ (p : Peripheral) (v : Word) (n : Nat),
    (p.ctrlRead.getLsbD n = if n = 28 then p.busy0 else if n = 29 then p.busy1 else p.ctrl.getLsbD n) ∧
    ((p.storeCtrl v).ctrl.getLsbD n = if n = 28 ∨ n = 29 then false else v.getLsbD n) ∧
    p.storeCtrl v = { p with ctrl := (p.storeCtrl v).ctrl }) ∧
  ∀ (p : Peripheral) (c : Chan) (v : Word),
    (p.storePeriod c v).period c = v ∧ (p.storePeriod c v).period (otherChan c) = p.period (otherChan c) ∧
    (p.storePeriod c v).written c = true ∧ (p.storePeriod c v).written (otherChan c) = p.written (otherChan c) ∧
    (∀ d, (p.storePeriod c v).busy d = p.busy d) ∧
    (p.storePeriod c v).ctrl = p.ctrl ∧ (p.storePeriod c v).pinmux = p.pinmux

/-- A busy flag changes only by a move of the peripheral's own: it is raised only after a period write of its channel has been
accepted, and not between a poll that showed it clear and the write that follows; it is dropped only by the Busy to Ready move; no
step of the block or of the host sets or clears one. The moves are the spec's decision D14 (assumption log 6, 7). -/
def Obligations.BusyFlagsMoveOnlyByThePeripheral : Prop :=
  ∀ (s t : State) (c : Chan), step s = .next t → t.hw.busy c ≠ s.hw.busy c →
    (t.hw.busy c = true ∧ s.hw.written c = true ∧ (∀ r, s.phase ≠ .periodWrite c r) ∧
      ∃ rest, s.sched = .peripheral (.raiseBusy c) :: rest) ∨
    (t.hw.busy c = false ∧ ∃ rest, s.sched = .peripheral (.dropBusy c) :: rest)

/-- A turn of the peripheral runs, does its one move and leaves the block alone: raise (possible once a period write of the channel
has been accepted, but not while the block is about to write that channel's period), drop, and the two draws, which change no field
bit (decision D14; assumption log 6, 7, 9). -/
def Obligations.PeripheralTurnsMoveOnlyThePeripheral : Prop :=
  ∀ (s : State) (m : PeripheralMove) (rest : List Turn), s.params.wellFormed = true → s.sched = .peripheral m :: rest →
    ∃ hw, step s = .next { s with sched := rest, hw := hw } ∧
      hw.period0 = s.hw.period0 ∧ hw.period1 = s.hw.period1 ∧ hw.written0 = s.hw.written0 ∧ hw.written1 = s.hw.written1 ∧
      hw.ctrl &&& 0x01FF83FF#32 = s.hw.ctrl &&& 0x01FF83FF#32 ∧
      match m with
      | .raiseBusy c =>
          (s.hw.written c = true → (∀ r, s.phase ≠ .periodWrite c r) → hw.busy c = true) ∧
          (s.hw.written c = false ∨ (∃ r, s.phase = .periodWrite c r) → hw = s.hw) ∧
          hw.busy (otherChan c) = s.hw.busy (otherChan c) ∧ hw.ctrl = s.hw.ctrl ∧ hw.pinmux = s.hw.pinmux
      | .dropBusy c => hw.busy c = false ∧ hw.busy (otherChan c) = s.hw.busy (otherChan c) ∧
          hw.ctrl = s.hw.ctrl ∧ hw.pinmux = s.hw.pinmux
      | .drawPadding v => hw = { s.hw with ctrl := hw.ctrl } ∧ hw.ctrl &&& 0xCE007C00#32 = v &&& 0xCE007C00#32
      | .drawPinmux v => hw = { s.hw with pinmux := v }

/-- The peripheral receives exactly what the PORT log says, one transaction at a time: a turn of the block appends at most one
transaction to the log, at one of the four addresses and no write at the pin-multiplexing register, and the peripheral afterwards
is the peripheral before with that transaction applied (the log is the model's observation, assumption log 10; the size of a step is
assumption log 8). -/
def Obligations.PeripheralReceivesExactlyTheLog : Prop :=
  ∀ (s t : State) (rest : List Turn), s.BlocksTurn rest → step s = .next t →
    ∃ txs, txs.length ≤ 1 ∧ t.portLog = s.portLog ++ txs ∧ t.hw = txs.foldl (Peripheral.receive s.params) s.hw ∧
      ∀ tx ∈ txs, tx.addr ∈ s.params.addrs ∧ (tx.isWrite = true → tx.addr ≠ s.params.pinmuxAddr)

/-! ## Reset and the outside world -/

/-- What construction leaves, for every launch parameter. The values of the fields other than `channel_id` and `enabled` are the
spec's decision D5 (assumption log 4); `alive`, the phase and the silence on PORT are its decisions D16, D12, D6. -/
def Obligations.LaunchStateIsAsTheResetTable : Prop :=
  ∀ (p : Params) (hw : Peripheral),
    (State.launch p hw).ch0 = ⟨.ch0, false, true, true, .continuous, false, false, 2#4, 0#16, 0#16⟩ ∧
    (State.launch p hw).ch1 = ⟨.ch1, false, true, true, .continuous, false, false, 2#4, 0#16, 0#16⟩ ∧
    (State.launch p hw).alive = true ∧ (State.launch p hw).phase = .idle ∧ (State.launch p hw).portLog = [] ∧
    (State.launch p hw).hw = hw ∧ (State.launch p hw).params = p

/-- A construction by the host resets the block at any time, from any phase and after SHUTDOWN too, issues no PORT transaction
and leaves the peripheral alone (decisions D5, D6, D16; that the index starts again at 0 is the model's, assumption log 11). -/
def Obligations.ConstructionResetsTheBlockOnly : Prop :=
  ∀ (s : State) (rest : List Turn), s.params.wellFormed = true → s.sched = .construct :: rest →
    step s = .next { s with
      sched := rest
      ch0 := ⟨.ch0, false, true, true, .continuous, false, false, 2#4, 0#16, 0#16⟩
      ch1 := ⟨.ch1, false, true, true, .continuous, false, false, 2#4, 0#16, 0#16⟩
      alive := true
      phase := .idle
      index := 0 }

/-- With no command on CMD an idle block waits (assumption log 19). -/
def Obligations.IdleBlockWaits : Prop :=
  ∀ (s : State) (rest : List Turn), s.params.wellFormed = true → s.BlocksTurn rest → s.phase = .idle → s.cmds = [] →
    step s = .next { s with sched := rest }

/-- A step answers a next state, except in exactly three cases, each refused by its name: parameters the spec does not allow
(decision D9), a command presented to a block that is not alive (decision D16), and a period write to a channel that is busy, to
which the spec gives no meaning (decision D14); the third is in no sound state. -/
def Obligations.StepIsRefusedInExactlyThreeCases : Prop :=
  (∀ s : State,
    (s.params.wellFormed = false → step s = .refused .parametersOutsideSpec) ∧
    (s.params.wellFormed = true → s.alive = false → (∃ rest, s.BlocksTurn rest) →
      ((s.phase = .idle ∧ s.cmds ≠ []) ∨ ∃ w, s.phase = .exec w) → step s = .refused .commandAfterShutdown) ∧
    (s.params.wellFormed = true → (∃ rest, s.BlocksTurn rest) → (∃ c r, s.phase = .periodWrite c r ∧ s.hw.busy c = true) →
      step s = .refused .periodWriteWhileBusy) ∧
    (s.params.wellFormed = true →
      ¬(s.alive = false ∧ (∃ rest, s.BlocksTurn rest) ∧ ((s.phase = .idle ∧ s.cmds ≠ []) ∨ ∃ w, s.phase = .exec w)) →
      ¬((∃ rest, s.BlocksTurn rest) ∧ ∃ c r, s.phase = .periodWrite c r ∧ s.hw.busy c = true) →
      ∃ t, step s = .next t)) ∧
  ∀ s : State, s.Sound → step s ≠ .refused .periodWriteWhileBusy

/-- The parameters the spec allows are pairwise distinct multiples of 4, and a bound of at least 1 (decisions D7, D9, D12). -/
def Obligations.AllowedParameters : Prop :=
  ∀ p : Params, p.wellFormed = true ↔
    (p.ctrlAddr ≠ p.periodAddr0 ∧ p.ctrlAddr ≠ p.periodAddr1 ∧ p.ctrlAddr ≠ p.pinmuxAddr ∧
      p.periodAddr0 ≠ p.periodAddr1 ∧ p.periodAddr0 ≠ p.pinmuxAddr ∧ p.periodAddr1 ≠ p.pinmuxAddr ∧
      4 ∣ p.ctrlAddr ∧ 4 ∣ p.periodAddr0 ∧ 4 ∣ p.periodAddr1 ∧ 4 ∣ p.pinmuxAddr ∧
      ∀ n, p.pollLimit = some n → 1 ≤ n)

/-! ## A step runs the decoded command -/

/-- When a word that decodes to `i` is next on CMD of a living idle block and it is the block's turn, the step is `exec i` at that
state with the word taken off the list, the turn taken, and the phase `Exec` (the list and the turns are the model's, assumption
log 5, 6). -/
def Obligations.StepRunsTheDecodedCommand : Prop :=
  ∀ (s : State) (w : Word) (i : Instr) (cmds : List Word) (rest : List Turn),
    s.Fetches w cmds → s.BlocksTurn rest → s.alive = true → decode w = .ok i →
    step s = exec i { s with cmds := cmds, sched := rest, phase := .exec w }

/-- The machine with a command word presented runs it in its very next step (the model's own convention, assumption log 5). -/
def Obligations.PresentedWordRunsNext : Prop :=
  ∀ (s : State) (w : Word) (i : Instr), s.params.wellFormed = true → decode w = .ok i →
    step (s.withFetchWord 32 w.toNat) = exec i { s with alive := true, sched := [], phase := .exec w }

/-- An illegal word ends with IllegalCommand and no other effect (decisions D2, D25). -/
def Obligations.IllegalWordOnlyReturnsIllegalCommand : Prop :=
  ∀ (s : State) (w : Word) (r : IllegalReason) (cmds : List Word) (rest : List Turn),
    s.Fetches w cmds → s.BlocksTurn rest → s.alive = true → decode w = .error r →
    ∃ t, step s = .next t ∧
      State.OnlyReturns { s with cmds := cmds, sched := rest } t ⟨.illegalCommand, .unit, .word w⟩

/-- Commands are served in the order of the host's list, one at a time: a step leaves the list alone or takes its first word, and
takes one only when no command is in progress (the extent of the atomic unit is the spec's decision D13; assumption log 5). -/
def Obligations.CommandsAreServedInOrderOneAtATime : Prop :=
  ∀ s t : State, step s = .next t →
    t.cmds = s.cmds ∨ (s.phase = .idle ∧ (∃ rest, s.BlocksTurn rest) ∧ ∃ w, s.cmds = w :: t.cmds)

/-- The command index advances by one with each result returned, whatever its status, and not otherwise; the results returned stay
as they are; a construction starts the index at 0 (the index is the spec's decision D18, its restart assumption log 11). -/
def Obligations.IndexAdvancesWithEachResult : Prop :=
  ∀ s t : State, step s = .next t →
    (s.ConstructsNext ∧ t.index = 0 ∧ t.results = s.results) ∨
    (¬s.ConstructsNext ∧ t.index = s.index ∧ t.results = s.results) ∨
    (¬s.ConstructsNext ∧ t.index = s.index + 1 ∧ t.phase = .idle ∧ ∃ r, t.results = s.results ++ [r])

/-! ## Write commands -/

/-- RUN c, imm: for 0 and 1, enables or disables with the four resets, keeps the rest of the channel and the other channel, and
writes the whole control register once; from 2 on, InvalidRange and no effect. -/
def Obligations.RunSetsEnabledAndRewritesTheRegister : Prop :=
  ∀ (s : State) (c : Chan) (imm : Half),
    (imm.toNat < 2 → ∃ t, exec (.run c imm) s = .next t ∧ s.Completes t ⟨.ok, .unit, .nothing⟩ ∧ t.alive = s.alive ∧
      t.chan c = { s.chan c with
        enabled := imm == 1#16, polarity := true, clockGating := true, mode := .continuous, prescaleCode := 2#4 } ∧
      t.chan (otherChan c) = s.chan (otherChan c) ∧
      t.hw = { s.hw with ctrl := pack t.ch0 t.ch1 } ∧
      t.portLog = s.portLog ++ [.write s.params.ctrlAddr (pack t.ch0 t.ch1)]) ∧
    (2 ≤ imm.toNat → ∃ t, exec (.run c imm) s = .next t ∧ s.OnlyReturns t ⟨.invalidRange, .unit, .operand imm⟩)

/-- POL c, imm: for a byte, sets the polarity to `imm != 0`, keeps everything else of both channels, and writes the whole control
register once; from 256 on, ParseError and no effect (the type check on CMD is the spec's decision D20). -/
def Obligations.PolSetsPolarityAndRewritesTheRegister : Prop :=
  ∀ (s : State) (c : Chan) (imm : Half),
    (imm.toNat ≤ 255 → ∃ t, exec (.pol c imm) s = .next t ∧ s.Completes t ⟨.ok, .unit, .nothing⟩ ∧ t.alive = s.alive ∧
      t.chan c = { s.chan c with polarity := imm != 0#16 } ∧
      t.chan (otherChan c) = s.chan (otherChan c) ∧
      t.hw = { s.hw with ctrl := pack t.ch0 t.ch1 } ∧
      t.portLog = s.portLog ++ [.write s.params.ctrlAddr (pack t.ch0 t.ch1)]) ∧
    (255 < imm.toNat → ∃ t, exec (.pol c imm) s = .next t ∧ s.OnlyReturns t ⟨.parseError, .unit, .operand imm⟩)

/-- PRESC c, imm: for 0 to 15, reserved codes included, stores the code, keeps everything else of both channels, and writes the
whole control register once; 16 to 255 InvalidRange, from 256 on ParseError, both with no effect (the type check on CMD and the
order of checks are the spec's decisions D20, D21). -/
def Obligations.PrescSetsCodeAndRewritesTheRegister : Prop :=
  ∀ (s : State) (c : Chan) (imm : Half),
    (imm.toNat ≤ 15 → ∃ t, exec (.presc c imm) s = .next t ∧ s.Completes t ⟨.ok, .unit, .nothing⟩ ∧ t.alive = s.alive ∧
      t.chan c = { s.chan c with prescaleCode := BitVec.ofNat 4 imm.toNat } ∧
      t.chan (otherChan c) = s.chan (otherChan c) ∧
      t.hw = { s.hw with ctrl := pack t.ch0 t.ch1 } ∧
      t.portLog = s.portLog ++ [.write s.params.ctrlAddr (pack t.ch0 t.ch1)]) ∧
    (15 < imm.toNat → imm.toNat ≤ 255 →
      ∃ t, exec (.presc c imm) s = .next t ∧ s.OnlyReturns t ⟨.invalidRange, .unit, .operand imm⟩) ∧
    (255 < imm.toNat → ∃ t, exec (.presc c imm) s = .next t ∧ s.OnlyReturns t ⟨.parseError, .unit, .operand imm⟩)

/-- ENTIRE c, imm, with parameters the spec allows. Flag clear: one read of the control register, then, in the block's next step,
one write of the channel's period register with the current active count and the new total, and the command ends with OK; in between
only the period write is pending. Flag set: the new total is in place, one read has been made, nothing is written, the command waits
in `Poll(c, 1)`. In both the old total is kept for a timeout (the poll counter and the kept count serve the spec's decision D12; that
poll and write are two steps is assumption log 8). -/
def Obligations.EntireWritesThePeriodOrWaits : Prop :=
  ∀ (s : State) (c : Chan) (imm : Half), s.params.wellFormed = true →
    ∃ t, exec (.entire c imm) s = .next t ∧
      t.chan c = { s.chan c with totalCycles := imm } ∧ t.chan (otherChan c) = s.chan (otherChan c) ∧
      t.alive = s.alive ∧ t.hw = s.hw ∧ t.results = s.results ∧ t.cmds = s.cmds ∧ t.sched = s.sched ∧ t.params = s.params ∧
      t.portLog = s.portLog ++ [.read s.params.ctrlAddr s.hw.ctrlRead] ∧
      (s.hw.busy c = true → t.phase = .poll c 1 ⟨.total, (s.chan c).totalCycles⟩) ∧
      (s.hw.busy c = false → t.phase = .periodWrite c ⟨.total, (s.chan c).totalCycles⟩ ∧
        ∀ rest, t.BlocksTurn rest → ∃ u, step t = .next u ∧ State.Completes { s with sched := rest } u ⟨.ok, .unit, .nothing⟩ ∧
          u.alive = s.alive ∧ u.chan c = { s.chan c with totalCycles := imm } ∧ u.chan (otherChan c) = s.chan (otherChan c) ∧
          u.hw = s.hw.storePeriod c (periodPack (s.chan c).activeCycles imm) ∧
          u.portLog = s.portLog ++ [.read s.params.ctrlAddr s.hw.ctrlRead,
            .write (s.params.periodAddr c) (periodPack (s.chan c).activeCycles imm)])

/-- ACTIVE c, imm: as ENTIRE, with the new active count and the current total (decision D12; assumption log 8). -/
def Obligations.ActiveWritesThePeriodOrWaits : Prop :=
  ∀ (s : State) (c : Chan) (imm : Half), s.params.wellFormed = true →
    ∃ t, exec (.active c imm) s = .next t ∧
      t.chan c = { s.chan c with activeCycles := imm } ∧ t.chan (otherChan c) = s.chan (otherChan c) ∧
      t.alive = s.alive ∧ t.hw = s.hw ∧ t.results = s.results ∧ t.cmds = s.cmds ∧ t.sched = s.sched ∧ t.params = s.params ∧
      t.portLog = s.portLog ++ [.read s.params.ctrlAddr s.hw.ctrlRead] ∧
      (s.hw.busy c = true → t.phase = .poll c 1 ⟨.active, (s.chan c).activeCycles⟩) ∧
      (s.hw.busy c = false → t.phase = .periodWrite c ⟨.active, (s.chan c).activeCycles⟩ ∧
        ∀ rest, t.BlocksTurn rest → ∃ u, step t = .next u ∧ State.Completes { s with sched := rest } u ⟨.ok, .unit, .nothing⟩ ∧
          u.alive = s.alive ∧ u.chan c = { s.chan c with activeCycles := imm } ∧ u.chan (otherChan c) = s.chan (otherChan c) ∧
          u.hw = s.hw.storePeriod c (periodPack imm (s.chan c).totalCycles) ∧
          u.portLog = s.portLog ++ [.read s.params.ctrlAddr s.hw.ctrlRead,
            .write (s.params.periodAddr c) (periodPack imm (s.chan c).totalCycles)])

/-- FREQ_WR: always InvalidRange, whatever the operand, and no effect. -/
def Obligations.FreqWrAlwaysRejects : Prop :=
  ∀ (s : State) (c : Chan) (imm : Half),
    ∃ t, exec (.freqWr c imm) s = .next t ∧ s.OnlyReturns t ⟨.invalidRange, .unit, .operand imm⟩

/-- InvalidRange has exactly these causes, and then the command only returns it; no later step of a command returns it. -/
def Obligations.InvalidRangeCauses : Prop :=
  (∀ (i : Instr) (s t : State) (r : Completion), exec i s = .next t → t.results = s.results ++ [r] →
    (r.status = .invalidRange ↔
      ((∃ c imm, i = .run c imm ∧ 2 ≤ imm.toNat) ∨ (∃ c imm, i = .presc c imm ∧ 16 ≤ imm.toNat ∧ imm.toNat ≤ 255) ∨
        ∃ c imm, i = .freqWr c imm)) ∧
    (r.status = .invalidRange → r.value = .unit ∧ s.OnlyReturns t r)) ∧
  ∀ (s t : State) (r : Completion), step s = .next t → t.results = s.results ++ [r] → r.status = .invalidRange →
    ∃ w i, s.CarriesOut t w ∧ decode w = .ok i

/-- ParseError has exactly these causes on CMD (the spec's decision D20), no decoded command ends with IllegalCommand, and a step
returns either only as it carries out a word. HardwareTimeout is returned by exactly those steps of the block that find, in phase
`Poll(c, k)`, that `k` is the bound, so never without a bound; and the block is in a period command only because it carried out an
ENTIRE or an ACTIVE of that channel, or was in it already (the bound is the spec's decision D12). -/
def Obligations.OtherErrorCauses : Prop :=
  (∀ (i : Instr) (s t : State) (r : Completion), exec i s = .next t → t.results = s.results ++ [r] →
    (r.status = .parseError ↔ ∃ c imm, (i = .pol c imm ∨ i = .presc c imm) ∧ 256 ≤ imm.toNat) ∧ r.status ≠ .illegalCommand) ∧
  (∀ (s t : State) (r : Completion), step s = .next t → t.results = s.results ++ [r] →
    (r.status = .parseError → ∃ w i, s.CarriesOut t w ∧ decode w = .ok i) ∧
    (r.status = .illegalCommand → ∃ w e, s.CarriesOut t w ∧ decode w = .error e) ∧
    (r.status = .hardwareTimeout ↔
      ∃ c k rb rest, s.BlocksTurn rest ∧ s.phase = .poll c k rb ∧ s.params.pollLimit = some k)) ∧
  ∀ (s t : State) (c : Chan), step s = .next t → t.phase.InPeriodCommand c →
    s.phase.InPeriodCommand c ∨
    ∃ w imm, s.CarriesOut t w ∧ (decode w = .ok (.entire c imm) ∨ decode w = .ok (.active c imm))

/-! ## Read commands -/

/-- RD_RUN, RD_POL, RD_PRESC, RD_ENTIRE, RD_ACTIVE return the field of the ChannelState and do nothing else. -/
def Obligations.ReadCommandsReturnTheMirror : Prop :=
  ∀ (s : State) (c : Chan),
    (∃ t, exec (.rdRun c) s = .next t ∧
      s.OnlyReturns t ⟨.ok, .bit (if (s.chan c).enabled then 1#1 else 0#1), .nothing⟩) ∧
    (∃ t, exec (.rdPol c) s = .next t ∧
      s.OnlyReturns t ⟨.ok, .bit (if (s.chan c).polarity then 1#1 else 0#1), .nothing⟩) ∧
    (∃ t, exec (.rdPresc c) s = .next t ∧ s.OnlyReturns t ⟨.ok, .code (s.chan c).prescaleCode, .nothing⟩) ∧
    (∃ t, exec (.rdEntire c) s = .next t ∧ s.OnlyReturns t ⟨.ok, .count (s.chan c).totalCycles, .nothing⟩) ∧
    (∃ t, exec (.rdActive c) s = .next t ∧ s.OnlyReturns t ⟨.ok, .count (s.chan c).activeCycles, .nothing⟩)

/-- RD_FREQ returns the frequency the mirror implies, Undefined with status OK on a reserved code (the spec's decision D11), and
does nothing else. -/
def Obligations.RdFreqReturnsTheMirrorsFrequency : Prop :=
  ∀ (s : State) (c : Chan), ∃ t, exec (.rdFreq c) s = .next t ∧
    s.OnlyReturns t ⟨.ok, .frequency (outputFrequency (s.chan c).prescaleCode (s.chan c).totalCycles), .nothing⟩

/-- A reserved prescale code is accepted by PRESC and makes RD_FREQ answer Undefined with status OK (the status is the spec's
decision D11). -/
def Obligations.ReservedCodeIsAcceptedThenUndefined : Prop :=
  ∀ (s : State) (c : Chan) (imm : Half), imm ∈ [5#16, 6#16, 7#16, 13#16, 14#16] →
    ∃ t u, exec (.presc c imm) s = .next t ∧ exec (.rdFreq c) t = .next u ∧
      u.results = s.results ++ [⟨.ok, .unit, .nothing⟩, ⟨.ok, .frequency .undefined, .nothing⟩]

/-! ## SNAPSHOT and SHUTDOWN -/

/-- SNAPSHOT reads the four registers once each, in the order control, period 0, period 1, pin-multiplexing, each read showing what
its register holds at that moment, then returns them raw and unpacked; it changes no state. Each read is a step of its own, so the
four are no atomic observation (assumption log 8); if nobody else moves, four steps show the registers as they were. The order is
the spec's decision D15, what the period registers read back assumption log 9. -/
def Obligations.SnapshotReadsTheFourRegisters : Prop :=
  (∀ s : State,
    exec .snapshot s = .next { s with
      phase := .snapshot (.ctrl s.hw.ctrlRead), portLog := s.portLog ++ [.read s.params.ctrlAddr s.hw.ctrlRead] } ∧
    (unpack s.hw.ctrlRead).ch0Busy = s.hw.busy0 ∧ (unpack s.hw.ctrlRead).ch1Busy = s.hw.busy1) ∧
  (∀ (s : State) (rest : List Turn), s.params.wellFormed = true → s.BlocksTurn rest →
    (∀ c, s.phase = .snapshot (.ctrl c) → step s = .next { s with
      sched := rest
      phase := .snapshot (.period0 c s.hw.period0)
      portLog := s.portLog ++ [.read s.params.periodAddr0 s.hw.period0] }) ∧
    (∀ c p0, s.phase = .snapshot (.period0 c p0) → step s = .next { s with
      sched := rest
      phase := .snapshot (.period1 c p0 s.hw.period1)
      portLog := s.portLog ++ [.read s.params.periodAddr1 s.hw.period1] }) ∧
    ∀ c p0 p1, s.phase = .snapshot (.period1 c p0 p1) → ∃ t, step s = .next t ∧
      State.Completes { s with sched := rest } t
        ⟨.ok, .snapshot ⟨c, unpack c, p0, p1, periodUnpack p0, periodUnpack p1, s.hw.pinmux⟩, .nothing⟩ ∧
      t.ch0 = s.ch0 ∧ t.ch1 = s.ch1 ∧ t.alive = s.alive ∧ t.hw = s.hw ∧
      t.portLog = s.portLog ++ [.read s.params.pinmuxAddr s.hw.pinmux]) ∧
  ∀ s : State, s.params.wellFormed = true → s.sched = [] → ∃ t u : State, exec .snapshot s = .next t ∧ core.run 3 t = .next u ∧
    s.Completes u
      ⟨.ok, .snapshot ⟨s.hw.ctrlRead, unpack s.hw.ctrlRead, s.hw.period0, s.hw.period1, periodUnpack s.hw.period0,
        periodUnpack s.hw.period1, s.hw.pinmux⟩, .nothing⟩ ∧
    u.ch0 = s.ch0 ∧ u.ch1 = s.ch1 ∧ u.alive = s.alive ∧ u.hw = s.hw ∧
    u.portLog = s.portLog ++ [.read s.params.ctrlAddr s.hw.ctrlRead, .read s.params.periodAddr0 s.hw.period0,
      .read s.params.periodAddr1 s.hw.period1, .read s.params.pinmuxAddr s.hw.pinmux]

/-- SHUTDOWN disables both channels with their resets, keeps the cycle counts, makes one control write, and ends the life of the
block; the value written is 0x00310062 when `pulse_start` and `bypass` are false (`alive` is the spec's decision D16, the value
rests on D3 and D4). -/
def Obligations.ShutdownDisablesBothChannels : Prop :=
  ∀ s : State, ∃ t, exec .shutdown s = .next t ∧ s.Completes t ⟨.ok, .unit, .nothing⟩ ∧ t.alive = false ∧
    (∀ c, t.chan c = { s.chan c with
      enabled := false, polarity := true, clockGating := true, mode := .continuous, prescaleCode := 2#4 }) ∧
    t.hw = { s.hw with ctrl := pack t.ch0 t.ch1 } ∧
    t.portLog = s.portLog ++ [.write s.params.ctrlAddr (pack t.ch0 t.ch1)] ∧
    ((∀ c, (s.chan c).pulseStart = false ∧ (s.chan c).bypass = false) → t.hw.ctrl = 0x00310062#32)

/-- `alive` becomes false only by a SHUTDOWN command, and true again only by construction (decision D16). -/
def Obligations.AliveEndsOnlyByShutdown : Prop :=
  ∀ s t : State, step s = .next t →
    (s.alive = true → t.alive = false → ∃ w, decode w = .ok .shutdown ∧ s.CarriesOut t w) ∧
    (s.alive = false → t.alive = true → s.ConstructsNext)

/-! ## The period protocol -/

/-- The steps of the period protocol. In phase `Poll(c, k)`: timeout when the bound is reached, with the old count back and no
transaction; else one fresh read; flag set, the phase is `Poll(c, k+1)`; flag clear, the period write is next. When it is next: one
write, of the channel's own counts, and OK. The bound as a count of polls and the restored count are the spec's decision D12; that
each of these is one step, with room for the peripheral between, is assumption log 8, that the bound is tested before a poll
assumption log 15. -/
def Obligations.PollingStep : Prop :=
  ∀ (s : State) (c : Chan) (r : Rollback) (rest : List Turn), s.params.wellFormed = true → s.BlocksTurn rest →
    (∀ k, s.phase = .poll c k r →
      (s.params.pollLimit = some k → ∃ t, step s = .next t ∧
        State.Completes { s with sched := rest } t ⟨.hardwareTimeout, .unit, .channel c⟩ ∧
        t.chan c = (s.chan c).restore r ∧ t.chan (otherChan c) = s.chan (otherChan c) ∧ t.alive = s.alive ∧ t.hw = s.hw ∧
        t.portLog = s.portLog) ∧
      (s.params.pollLimit ≠ some k →
        step s = .next { s with
          sched := rest
          phase := if s.hw.busy c then .poll c (k + 1) r else .periodWrite c r
          portLog := s.portLog ++ [.read s.params.ctrlAddr s.hw.ctrlRead] })) ∧
    (s.phase = .periodWrite c r → s.hw.busy c = false → ∃ t, step s = .next t ∧
      State.Completes { s with sched := rest } t ⟨.ok, .unit, .nothing⟩ ∧ t.ch0 = s.ch0 ∧ t.ch1 = s.ch1 ∧
      t.alive = s.alive ∧
      t.hw = s.hw.storePeriod c (periodPack (s.chan c).activeCycles (s.chan c).totalCycles) ∧
      t.portLog = s.portLog ++
        [.write (s.params.periodAddr c) (periodPack (s.chan c).activeCycles (s.chan c).totalCycles)])

/-- A period register is written only when its channel is ready, as the transaction right after a read of the control register that
showed the channel's busy bit clear, once, with the channel's own counts, and then the command has ended; no step writes it
otherwise. Only the read before needs a sound state; that nothing raises the flag in between is the spec's derivation (assumption
log 7), that the write is a step of its own is assumption log 8. -/
def Obligations.PeriodWriteOnlyWhenReady : Prop :=
  ∀ (s t : State) (c : Chan) (txs : List PortTx) (v : Word), step s = .next t → t.portLog = s.portLog ++ txs →
    .write (s.params.periodAddr c) v ∈ txs →
    s.hw.busy c = false ∧ (∃ r, s.phase = .periodWrite c r) ∧ txs = [.write (s.params.periodAddr c) v] ∧
    v = periodPack (s.chan c).activeCycles (s.chan c).totalCycles ∧ t.phase = .idle ∧
    (s.Sound → ∃ l u, s.portLog = l ++ [.read s.params.ctrlAddr u] ∧ u.getLsbD (28 + chanIndex c) = false)

/-- Without a bound, a busy flag that never clears is a hang: after any number of steps of the block the command still polls, one
read a step, with no result, no write, and no other command accepted. That one poll is one step, the first in the step that accepts
the word, is assumption log 8; the counter is the spec's decision D12; the peripheral's silence stands in the empty list of turns
(assumption log 6). -/
def Obligations.StuckBusyFlagHangsForEver : Prop :=
  ∀ (m : Nat) (s : State) (w : Word) (cmds : List Word) (c : Chan) (imm : Half),
    s.Fetches w cmds → s.sched = [] → s.alive = true → (decode w = .ok (.entire c imm) ∨ decode w = .ok (.active c imm)) →
    s.params.pollLimit = none → s.hw.busy c = true →
    ∃ (t : State) (r : Rollback), core.run (m + 1) s = .next t ∧ t.phase = .poll c (m + 1) r ∧ t.results = s.results ∧ t.hw = s.hw ∧
      t.cmds = cmds ∧
      t.portLog = s.portLog ++ List.replicate (m + 1) (.read s.params.ctrlAddr s.hw.ctrlRead)

/-- With the bound `n`, a busy flag that stays set ends ENTIRE or ACTIVE with HardwareTimeout after exactly `n` reads and no
write, and every register is as before the command (the spec's decision D12). That this takes `n + 1` steps, acceptance and first
poll being one and the timeout one, is assumption log 8 and 15; the peripheral's silence stands in the empty list of turns
(assumption log 6). -/
def Obligations.BoundedWaitTimesOutWithoutEffect : Prop :=
  ∀ (n : Nat) (s : State) (w : Word) (cmds : List Word) (c : Chan) (imm : Half),
    s.Fetches w cmds → s.sched = [] → s.alive = true → (decode w = .ok (.entire c imm) ∨ decode w = .ok (.active c imm)) →
    s.params.pollLimit = some n → s.hw.busy c = true →
    ∃ t : State, core.run (n + 1) s = .next t ∧
      State.Completes { s with cmds := cmds } t ⟨.hardwareTimeout, .unit, .channel c⟩ ∧
      t.ch0 = s.ch0 ∧ t.ch1 = s.ch1 ∧ t.alive = s.alive ∧ t.hw = s.hw ∧
      t.portLog = s.portLog ++ List.replicate n (.read s.params.ctrlAddr s.hw.ctrlRead)

/-- A wait ends, of ENTIRE and of ACTIVE alike: when the flag is still set at `j + 1` polls, fewer than the bound, and the
peripheral then drops it, the block polls once more, writes the period once and ends with OK, whatever else the peripheral does in
between. It moves as it likes but for this: it drops the flag at that point and not before, and does not raise it again before the
last poll; after that poll it cannot, until the write (R102). The turns are assumption log 6; that a poll and the write are a step
each, and acceptance and first poll one, is assumption log 8; the bound and the peripheral's moves are the spec's decisions D12,
D14. -/
def Obligations.WaitEndsWhenTheFlagClears : Prop :=
  ∀ (j : Nat) (s : State) (w : Word) (cmds : List Word) (c : Chan) (imm : Half) (ts us vs rest : List Turn),
    s.Fetches w cmds → s.alive = true → (decode w = .ok (.entire c imm) ∨ decode w = .ok (.active c imm)) →
    s.sched = ts ++ .peripheral (.dropBusy c) :: us ++ .block :: vs ++ .block :: rest →
    ts.count .block = j + 1 → (∀ x ∈ ts, x = .block ∨ ∃ m, x = .peripheral m ∧ m ≠ .dropBusy c) →
    (∀ x ∈ us, ∃ m, x = .peripheral m ∧ m ≠ .raiseBusy c) → (∀ x ∈ vs, ∃ m, x = .peripheral m) →
    (∀ n, s.params.pollLimit = some n → j + 1 < n) → s.hw.busy c = true →
    ∃ t : State, core.run (ts.length + us.length + vs.length + 3) s = .next t ∧
      t.phase = .idle ∧ t.sched = rest ∧ t.cmds = cmds ∧ t.alive = true ∧
      t.results = s.results ++ [⟨.ok, .unit, .nothing⟩] ∧
      (decode w = .ok (.entire c imm) → t.chan c = { s.chan c with totalCycles := imm }) ∧
      (decode w = .ok (.active c imm) → t.chan c = { s.chan c with activeCycles := imm }) ∧
      t.chan (otherChan c) = s.chan (otherChan c) ∧
      t.hw.period c = periodPack (t.chan c).activeCycles (t.chan c).totalCycles ∧
      (t.portLog.filter PortTx.isWrite) = s.portLog.filter PortTx.isWrite ++
        [.write (s.params.periodAddr c) (periodPack (t.chan c).activeCycles (t.chan c).totalCycles)]

/-! ## Errors -/

/-- A command that ends with an error has no effect: every channel record is as it was before the command (with the count of an
unfinished period command taken back), `alive` and the peripheral are as before, no PORT transaction is made in the step that
ends it, no value is returned (HardwareTimeout and IllegalCommand are the spec's decisions D12, D25). -/
def Obligations.FailedCommandHasNoEffect : Prop :=
  ∀ (s t : State) (r : Completion), step s = .next t → t.results = s.results ++ [r] → r.status ≠ .ok →
    (∀ c, t.chan c = s.settled c) ∧ t.alive = s.alive ∧ t.hw = s.hw ∧ t.portLog = s.portLog ∧ t.phase = .idle ∧
      r.value = .unit

/-! ## Invariants -/

/-- The launch state is sound, whatever the parameters and the peripheral (the reset values are the spec's decision D5,
assumption log 4). -/
def Obligations.LaunchStateIsSound : Prop := ∀ (p : Params) (hw : Peripheral), (State.launch p hw).Sound

/-- Every step keeps the sound states: `channel_id` stays hard-wired, the fields without a setter keep their defaults, the poll
counter stays within its bound, a period write is next only right after a read that showed the channel ready and while it is ready,
a SNAPSHOT holds what it has just read, and a command is in progress only while the block is alive (the defaults are the spec's
decision D5, the bound its decision D12, `alive` its decision D16; assumption log 7, 8, 10). -/
def Obligations.StepKeepsSoundStates : Prop := ∀ s t : State, s.Sound → step s = .next t → t.Sound

/-- Every step keeps the open parameters: they are fixed for the life of the machine (assumption log 2). -/
def Obligations.StepKeepsParameters : Prop := ∀ s t : State, step s = .next t → t.params = s.params

/-- Mirror coherence of the control register is kept by every step but a construction (the peripheral is the spec's decision D14;
that a draw of the padding bits keeps the fields is assumption log 9). -/
def Obligations.StepKeepsControlCoherence : Prop :=
  ∀ s t : State, s.ControlCoherent → ¬s.ConstructsNext → step s = .next t → t.ControlCoherent

/-- Mirror coherence of a period register is kept by every step but a construction, also while a period command waits and when it
times out (decisions D12, D14). -/
def Obligations.StepKeepsPeriodCoherence : Prop :=
  ∀ (s t : State) (c : Chan), s.PeriodCoherent c → ¬s.ConstructsNext → step s = .next t → t.PeriodCoherent c

/-- Whatever the registers held before, a step that ends a write command with OK makes them agree with the mirror: either it carries
out a RUN, POL, PRESC or SHUTDOWN, on either channel, and the control register agrees for BOTH channels; or it is the period write of
an ENTIRE or ACTIVE, at once or after any wait, and that channel's period register agrees (the spec derives this; the peripheral is
its decision D14; that the period write is a step of its own is assumption log 8). -/
def Obligations.SuccessfulWriteMakesCoherent : Prop :=
  ∀ s t : State, step s = .next t → t.results = s.results ++ [⟨.ok, .unit, .nothing⟩] →
    (t.ControlCoherent ∧ ∃ w i, s.CarriesOut t w ∧ decode w = .ok i ∧
      ((∃ c imm, i = .run c imm ∨ i = .pol c imm ∨ i = .presc c imm) ∨ i = .shutdown)) ∨
    ∃ c r, s.phase = .periodWrite c r ∧ t.PeriodCoherent c

/-! ## No feedback, no lost update -/

/-- Nothing read from the registers drives the logical state: of two machines that differ only in what the control, period and
pin-multiplexing registers hold, and in what a SNAPSHOT has shown of that, each makes the same step as the other, and they stay alike:
the same logical state, results (but for the record of a SNAPSHOT) and writes, step after step (that a SNAPSHOT is four steps, with what
it has read in the phase, is assumption log 8; the busy flags, which do drive it, are the spec's decision D14). -/
def Obligations.RegisterContentsNeverDriveTheBlock : Prop :=
  ∀ s s' t : State, s.Alike s' → step s = .next t → ∃ t', step s' = .next t' ∧ t.Alike t'

/-- Only the channel's own busy flag holds a period command: in every step of the block for an ENTIRE or ACTIVE of channel `c` (its
first poll, a further poll, its timeout, its write), with everything else in the peripheral changed, the other channel's flag too, the
block makes the same changes to itself and the same writes (that 1 is busy is the spec's decision D4, the size of a step assumption
log 8). -/
def Obligations.OnlyTheOwnBusyFlagHoldsAPeriodCommand : Prop :=
  ∀ (s t : State) (hw' : Peripheral) (c : Chan) (rest : List Turn), s.BlocksTurn rest → step s = .next t →
    (s.phase.InPeriodCommand c ∨
      ∃ w imm, s.CarriesOut t w ∧ (decode w = .ok (.entire c imm) ∨ decode w = .ok (.active c imm))) →
    hw'.busy c = s.hw.busy c →
    ∃ t', step { s with hw := hw' } = .next t' ∧ t'.ch0 = t.ch0 ∧ t'.ch1 = t.ch1 ∧ t'.alive = t.alive ∧
      t'.phase = t.phase ∧ t'.results = t.results ∧ t'.index = t.index ∧ t'.cmds = t.cmds ∧
      t'.portLog.filter PortTx.isWrite = t.portLog.filter PortTx.isWrite

/-- A polarity change of one channel and a prescale change of the other lose neither update, in whichever order they run: the end
states agree, and the control register shows both (the order in which contexts are served is open: assumption log 5). -/
def Obligations.NoUpdateIsLostInEitherOrder : Prop :=
  ∀ (s : State) (c : Chan) (p q : Half), p.toNat ≤ 255 → q.toNat ≤ 15 →
    ∃ a b a' b', exec (.pol c p) s = .next a ∧ exec (.presc (otherChan c) q) a = .next b ∧
      exec (.presc (otherChan c) q) s = .next a' ∧ exec (.pol c p) a' = .next b' ∧
      b.ch0 = b'.ch0 ∧ b.ch1 = b'.ch1 ∧ b.hw = b'.hw ∧
      (b.chan c).polarity = (p != 0#16) ∧ (b.chan (otherChan c)).prescaleCode = BitVec.ofNat 4 q.toNat ∧
      unpack b.hw.ctrl = ⟨b.ch0.fields, b.ch1.fields, false, false⟩

/-! ## Statuses and endpoints -/

/-- The numeric status codes (the spec's decision D17). -/
def Obligations.StatusCodesAreAsListed : Prop :=
  [Status.ok, .parseError, .invalidRange, .hardwareTimeout, .illegalCommand].map Status.code = [0, 1, 2, 3, 4]

/-- The text endpoints: the commands they issue; the integers their writes accept, an integer of another type, or text that is no
number, being a ParseError that names it and issues no command; the reply to a write, an invalid-input condition for every status but
OK; the text of a value, the texts the spec leaves open being the front end's (decimal is the spec's decision D24, the bound of a byte
its decision D20, 16 bits for the others and that a text starts from its parsed form assumption log 18). -/
def Obligations.EndpointsMapToCommands : Prop :=
  (∀ (c : Chan) (n : Nat),
    Endpoint.readCommand .run c = .rdRun c ∧ Endpoint.readCommand .polarity c = .rdPol c ∧
    Endpoint.readCommand .prescale c = .rdPresc c ∧ Endpoint.readCommand .entirecycles c = .rdEntire c ∧
    Endpoint.readCommand .activecycles c = .rdActive c ∧ Endpoint.readCommand .freqperiod c = .rdFreq c ∧
    Endpoint.readCommand .hardware c = .snapshot ∧
    (n < 256 → Endpoint.write .polarity c (.number n) = .issue (.pol c (BitVec.ofNat 16 n)) ∧
      Endpoint.write .prescale c (.number n) = .issue (.presc c (BitVec.ofNat 16 n))) ∧
    (256 ≤ n → ∀ e ∈ [Endpoint.polarity, .prescale], e.write c (.number n) = .parseError (.number n)) ∧
    (n < 65536 → Endpoint.write .run c (.number n) = .issue (.run c (BitVec.ofNat 16 n)) ∧
      Endpoint.write .entirecycles c (.number n) = .issue (.entire c (BitVec.ofNat 16 n)) ∧
      Endpoint.write .activecycles c (.number n) = .issue (.active c (BitVec.ofNat 16 n)) ∧
      Endpoint.write .freqperiod c (.number n) = .issue (.freqWr c (BitVec.ofNat 16 n))) ∧
    (65536 ≤ n → ∀ e ∈ [Endpoint.run, .entirecycles, .activecycles, .freqperiod],
      e.write c (.number n) = .parseError (.number n))) ∧
  (∀ (c : Chan) (e : Endpoint) (s : String) (w : Written),
    (e ≠ .hardware → e.write c (.text s) = .parseError (.text s)) ∧ Endpoint.write .hardware c w = .noCommand) ∧
  (∀ (fe : FrontEndParams) (st : Status) (i : Instr) (w : Written),
    ((FrontEnd.issue i).reply fe st = .accepted ↔ st = .ok) ∧
    (FrontEnd.parseError w).reply fe st = .invalidInput ∧ FrontEnd.noCommand.reply fe st = fe.hardwareWrite) ∧
  ∀ (fe : FrontEndParams) (b : BitVec 1) (code : Code) (v : Half) (n : BitVec 32) (r : Snapshot),
    (Value.bit b).render fe = some (toString b.toNat ++ "\n") ∧ (Value.code code).render fe = some (toString code.toNat ++ "\n") ∧
    (Value.count v).render fe = some (toString v.toNat ++ "\n") ∧
    (Value.frequency (.hz n)).render fe = some (toString n.toNat ++ "hz\n") ∧
    (Value.frequency .undefined).render fe = some fe.undefinedText ∧ (Value.snapshot r).render fe = some (fe.dumpText r)
end

