-- ==== Sys2Proof/Laws/State.lean ====
section
/-! SUPPORT. One lemma per field of State per update, each true by rfl (by cases where the channel decides), so that no
later proof unfolds a record update. -/

namespace Sys2Proof.Machine

/-! ## setChan -/

@[simp] theorem State.setChan_params (s : State) (c : Chan) (x : ChannelState) : (s.setChan c x).params = s.params := by
  cases c <;> rfl

@[simp] theorem State.setChan_alive (s : State) (c : Chan) (x : ChannelState) : (s.setChan c x).alive = s.alive := by
  cases c <;> rfl

@[simp] theorem State.setChan_phase (s : State) (c : Chan) (x : ChannelState) : (s.setChan c x).phase = s.phase := by
  cases c <;> rfl

@[simp] theorem State.setChan_hw (s : State) (c : Chan) (x : ChannelState) : (s.setChan c x).hw = s.hw := by
  cases c <;> rfl

@[simp] theorem State.setChan_cmds (s : State) (c : Chan) (x : ChannelState) : (s.setChan c x).cmds = s.cmds := by
  cases c <;> rfl

@[simp] theorem State.setChan_index (s : State) (c : Chan) (x : ChannelState) : (s.setChan c x).index = s.index := by
  cases c <;> rfl

@[simp] theorem State.setChan_sched (s : State) (c : Chan) (x : ChannelState) : (s.setChan c x).sched = s.sched := by
  cases c <;> rfl

@[simp] theorem State.setChan_results (s : State) (c : Chan) (x : ChannelState) :
    (s.setChan c x).results = s.results := by
  cases c <;> rfl

@[simp] theorem State.setChan_portLog (s : State) (c : Chan) (x : ChannelState) :
    (s.setChan c x).portLog = s.portLog := by
  cases c <;> rfl

@[simp] theorem State.setChan_chan (s : State) (c : Chan) (x : ChannelState) : (s.setChan c x).chan c = x := by
  cases c <;> rfl

theorem State.setChan_chan_ne (s : State) (c d : Chan) (x : ChannelState) (h : d ≠ c) :
    (s.setChan c x).chan d = s.chan d := by
  cases c <;> cases d <;> first | rfl | exact absurd rfl h

@[simp] theorem State.setChan_ch0 (s : State) (x : ChannelState) : s.setChan .ch0 x = { s with ch0 := x } := rfl

@[simp] theorem State.setChan_ch1 (s : State) (x : ChannelState) : s.setChan .ch1 x = { s with ch1 := x } := rfl

@[simp] theorem State.chan_ch0 (s : State) : s.chan .ch0 = s.ch0 := rfl

@[simp] theorem State.chan_ch1 (s : State) : s.chan .ch1 = s.ch1 := rfl

/-! ## logTx -/

@[simp] theorem State.logTx_params (s : State) (tx : PortTx) : (s.logTx tx).params = s.params := rfl

@[simp] theorem State.logTx_ch0 (s : State) (tx : PortTx) : (s.logTx tx).ch0 = s.ch0 := rfl

@[simp] theorem State.logTx_ch1 (s : State) (tx : PortTx) : (s.logTx tx).ch1 = s.ch1 := rfl

@[simp] theorem State.logTx_alive (s : State) (tx : PortTx) : (s.logTx tx).alive = s.alive := rfl

@[simp] theorem State.logTx_phase (s : State) (tx : PortTx) : (s.logTx tx).phase = s.phase := rfl

@[simp] theorem State.logTx_hw (s : State) (tx : PortTx) : (s.logTx tx).hw = s.hw := rfl

@[simp] theorem State.logTx_cmds (s : State) (tx : PortTx) : (s.logTx tx).cmds = s.cmds := rfl

@[simp] theorem State.logTx_index (s : State) (tx : PortTx) : (s.logTx tx).index = s.index := rfl

@[simp] theorem State.logTx_sched (s : State) (tx : PortTx) : (s.logTx tx).sched = s.sched := rfl

@[simp] theorem State.logTx_results (s : State) (tx : PortTx) : (s.logTx tx).results = s.results := rfl

@[simp] theorem State.logTx_portLog (s : State) (tx : PortTx) : (s.logTx tx).portLog = s.portLog ++ [tx] := rfl

/-! ## writeCtrl -/

@[simp] theorem State.writeCtrl_params (s : State) (v : Word) : (s.writeCtrl v).params = s.params := rfl

@[simp] theorem State.writeCtrl_ch0 (s : State) (v : Word) : (s.writeCtrl v).ch0 = s.ch0 := rfl

@[simp] theorem State.writeCtrl_ch1 (s : State) (v : Word) : (s.writeCtrl v).ch1 = s.ch1 := rfl

@[simp] theorem State.writeCtrl_alive (s : State) (v : Word) : (s.writeCtrl v).alive = s.alive := rfl

@[simp] theorem State.writeCtrl_phase (s : State) (v : Word) : (s.writeCtrl v).phase = s.phase := rfl

@[simp] theorem State.writeCtrl_hw (s : State) (v : Word) : (s.writeCtrl v).hw = s.hw.storeCtrl v := rfl

@[simp] theorem State.writeCtrl_cmds (s : State) (v : Word) : (s.writeCtrl v).cmds = s.cmds := rfl

@[simp] theorem State.writeCtrl_index (s : State) (v : Word) : (s.writeCtrl v).index = s.index := rfl

@[simp] theorem State.writeCtrl_sched (s : State) (v : Word) : (s.writeCtrl v).sched = s.sched := rfl

@[simp] theorem State.writeCtrl_results (s : State) (v : Word) : (s.writeCtrl v).results = s.results := rfl

@[simp] theorem State.writeCtrl_portLog (s : State) (v : Word) :
    (s.writeCtrl v).portLog = s.portLog ++ [.write s.params.ctrlAddr v] := rfl

/-! ## ctrlWrite -/

@[simp] theorem State.ctrlWrite_params (s : State) : (s.ctrlWrite).params = s.params := rfl

@[simp] theorem State.ctrlWrite_ch0 (s : State) : (s.ctrlWrite).ch0 = s.ch0 := rfl

@[simp] theorem State.ctrlWrite_ch1 (s : State) : (s.ctrlWrite).ch1 = s.ch1 := rfl

@[simp] theorem State.ctrlWrite_alive (s : State) : (s.ctrlWrite).alive = s.alive := rfl

@[simp] theorem State.ctrlWrite_phase (s : State) : (s.ctrlWrite).phase = s.phase := rfl

@[simp] theorem State.ctrlWrite_hw (s : State) : (s.ctrlWrite).hw = s.hw.storeCtrl (pack s.ch0 s.ch1) := rfl

@[simp] theorem State.ctrlWrite_cmds (s : State) : (s.ctrlWrite).cmds = s.cmds := rfl

@[simp] theorem State.ctrlWrite_index (s : State) : (s.ctrlWrite).index = s.index := rfl

@[simp] theorem State.ctrlWrite_sched (s : State) : (s.ctrlWrite).sched = s.sched := rfl

@[simp] theorem State.ctrlWrite_results (s : State) : (s.ctrlWrite).results = s.results := rfl

@[simp] theorem State.ctrlWrite_portLog (s : State) :
    (s.ctrlWrite).portLog = s.portLog ++ [.write s.params.ctrlAddr (pack s.ch0 s.ch1)] := rfl

/-! ## writePeriod -/

@[simp] theorem State.writePeriod_params (s : State) (c : Chan) (v : Word) :
    (s.writePeriod c v).params = s.params := rfl

@[simp] theorem State.writePeriod_ch0 (s : State) (c : Chan) (v : Word) : (s.writePeriod c v).ch0 = s.ch0 := rfl

@[simp] theorem State.writePeriod_ch1 (s : State) (c : Chan) (v : Word) : (s.writePeriod c v).ch1 = s.ch1 := rfl

@[simp] theorem State.writePeriod_alive (s : State) (c : Chan) (v : Word) : (s.writePeriod c v).alive = s.alive := rfl

@[simp] theorem State.writePeriod_phase (s : State) (c : Chan) (v : Word) : (s.writePeriod c v).phase = s.phase := rfl

@[simp] theorem State.writePeriod_hw (s : State) (c : Chan) (v : Word) :
    (s.writePeriod c v).hw = s.hw.storePeriod c v := rfl

@[simp] theorem State.writePeriod_cmds (s : State) (c : Chan) (v : Word) : (s.writePeriod c v).cmds = s.cmds := rfl

@[simp] theorem State.writePeriod_index (s : State) (c : Chan) (v : Word) : (s.writePeriod c v).index = s.index := rfl

@[simp] theorem State.writePeriod_sched (s : State) (c : Chan) (v : Word) : (s.writePeriod c v).sched = s.sched := rfl

@[simp] theorem State.writePeriod_results (s : State) (c : Chan) (v : Word) :
    (s.writePeriod c v).results = s.results := rfl

@[simp] theorem State.writePeriod_portLog (s : State) (c : Chan) (v : Word) :
    (s.writePeriod c v).portLog = s.portLog ++ [.write (s.params.periodAddr c) v] := rfl

/-! ## finish -/

@[simp] theorem State.finish_params (s : State) (r : Completion) : (s.finish r).params = s.params := rfl

@[simp] theorem State.finish_ch0 (s : State) (r : Completion) : (s.finish r).ch0 = s.ch0 := rfl

@[simp] theorem State.finish_ch1 (s : State) (r : Completion) : (s.finish r).ch1 = s.ch1 := rfl

@[simp] theorem State.finish_alive (s : State) (r : Completion) : (s.finish r).alive = s.alive := rfl

@[simp] theorem State.finish_phase (s : State) (r : Completion) : (s.finish r).phase = .idle := rfl

@[simp] theorem State.finish_hw (s : State) (r : Completion) : (s.finish r).hw = s.hw := rfl

@[simp] theorem State.finish_cmds (s : State) (r : Completion) : (s.finish r).cmds = s.cmds := rfl

@[simp] theorem State.finish_index (s : State) (r : Completion) : (s.finish r).index = s.index + 1 := rfl

@[simp] theorem State.finish_sched (s : State) (r : Completion) : (s.finish r).sched = s.sched := rfl

@[simp] theorem State.finish_results (s : State) (r : Completion) : (s.finish r).results = s.results ++ [r] := rfl

@[simp] theorem State.finish_portLog (s : State) (r : Completion) : (s.finish r).portLog = s.portLog := rfl

/-! ## construct -/

@[simp] theorem State.construct_params (s : State) : (s.construct).params = s.params := rfl

@[simp] theorem State.construct_ch0 (s : State) : (s.construct).ch0 = ChannelState.reset .ch0 := rfl

@[simp] theorem State.construct_ch1 (s : State) : (s.construct).ch1 = ChannelState.reset .ch1 := rfl

@[simp] theorem State.construct_alive (s : State) : (s.construct).alive = true := rfl

@[simp] theorem State.construct_phase (s : State) : (s.construct).phase = .idle := rfl

@[simp] theorem State.construct_hw (s : State) : (s.construct).hw = s.hw := rfl

@[simp] theorem State.construct_cmds (s : State) : (s.construct).cmds = s.cmds := rfl

@[simp] theorem State.construct_index (s : State) : (s.construct).index = 0 := rfl

@[simp] theorem State.construct_sched (s : State) : (s.construct).sched = s.sched := rfl

@[simp] theorem State.construct_results (s : State) : (s.construct).results = s.results := rfl

@[simp] theorem State.construct_portLog (s : State) : (s.construct).portLog = s.portLog := rfl

/-! ## accept -/

@[simp] theorem State.accept_params (s : State) (w : Word) (rest : List Word) :
    (s.accept w rest).params = s.params := rfl

@[simp] theorem State.accept_ch0 (s : State) (w : Word) (rest : List Word) : (s.accept w rest).ch0 = s.ch0 := rfl

@[simp] theorem State.accept_ch1 (s : State) (w : Word) (rest : List Word) : (s.accept w rest).ch1 = s.ch1 := rfl

@[simp] theorem State.accept_alive (s : State) (w : Word) (rest : List Word) : (s.accept w rest).alive = s.alive := rfl

@[simp] theorem State.accept_phase (s : State) (w : Word) (rest : List Word) : (s.accept w rest).phase = .exec w := rfl

@[simp] theorem State.accept_hw (s : State) (w : Word) (rest : List Word) : (s.accept w rest).hw = s.hw := rfl

@[simp] theorem State.accept_cmds (s : State) (w : Word) (rest : List Word) : (s.accept w rest).cmds = rest := rfl

@[simp] theorem State.accept_index (s : State) (w : Word) (rest : List Word) : (s.accept w rest).index = s.index := rfl

@[simp] theorem State.accept_sched (s : State) (w : Word) (rest : List Word) : (s.accept w rest).sched = s.sched := rfl

@[simp] theorem State.accept_results (s : State) (w : Word) (rest : List Word) :
    (s.accept w rest).results = s.results := rfl

@[simp] theorem State.accept_portLog (s : State) (w : Word) (rest : List Word) :
    (s.accept w rest).portLog = s.portLog := rfl

/-! ## present -/

@[simp] theorem State.present_params (s : State) (w : Word) : (s.present w).params = s.params := rfl

@[simp] theorem State.present_ch0 (s : State) (w : Word) : (s.present w).ch0 = s.ch0 := rfl

@[simp] theorem State.present_ch1 (s : State) (w : Word) : (s.present w).ch1 = s.ch1 := rfl

@[simp] theorem State.present_alive (s : State) (w : Word) : (s.present w).alive = true := rfl

@[simp] theorem State.present_phase (s : State) (w : Word) : (s.present w).phase = .idle := rfl

@[simp] theorem State.present_hw (s : State) (w : Word) : (s.present w).hw = s.hw := rfl

@[simp] theorem State.present_cmds (s : State) (w : Word) : (s.present w).cmds = w :: s.cmds := rfl

@[simp] theorem State.present_index (s : State) (w : Word) : (s.present w).index = s.index := rfl

@[simp] theorem State.present_sched (s : State) (w : Word) : (s.present w).sched = [] := rfl

@[simp] theorem State.present_results (s : State) (w : Word) : (s.present w).results = s.results := rfl

@[simp] theorem State.present_portLog (s : State) (w : Word) : (s.present w).portLog = s.portLog := rfl

/-! ## Channel records through the updates -/

@[simp] theorem State.logTx_chan (s : State) (tx : PortTx) (c : Chan) : (s.logTx tx).chan c = s.chan c := by
  cases c <;> rfl

@[simp] theorem State.writeCtrl_chan (s : State) (v : Word) (c : Chan) : (s.writeCtrl v).chan c = s.chan c := by
  cases c <;> rfl

@[simp] theorem State.ctrlWrite_chan (s : State) (c : Chan) : (s.ctrlWrite).chan c = s.chan c := by
  cases c <;> rfl

@[simp] theorem State.writePeriod_chan (s : State) (d : Chan) (v : Word) (c : Chan) :
    (s.writePeriod d v).chan c = s.chan c := by
  cases c <;> rfl

@[simp] theorem State.finish_chan (s : State) (r : Completion) (c : Chan) : (s.finish r).chan c = s.chan c := by
  cases c <;> rfl

@[simp] theorem State.accept_chan (s : State) (w : Word) (rest : List Word) (c : Chan) :
    (s.accept w rest).chan c = s.chan c := by
  cases c <;> rfl

@[simp] theorem State.present_chan (s : State) (w : Word) (c : Chan) : (s.present w).chan c = s.chan c := by
  cases c <;> rfl

end Sys2Proof.Machine
end

