-- ==== Sys2Proof/Laws/Ops.lean ====
section
/-! SUPPORT. One lemma per shared operation that says everything it can do; later proofs cite these and do not unfold the
operations. -/

namespace Sys2Proof.Machine

/-! ## Outcomes -/

/-- Two next states are equal exactly when the outcomes are. -/
theorem next_inj {s t : State} (h : (.next s : Host.Outcome State Fault Refusal) = .next t) : s = t := by
  injection h

theorem complete_eq (v : Value) (s : State) : complete v s = .next (s.finish ⟨.ok, v, .nothing⟩) := rfl

theorem raise_eq (e : Status) (info : ErrorInfo) (s : State) : raise e info s = .next (s.finish ⟨e, .unit, info⟩) := rfl

/-! ## The peripheral -/

/-- A write of the control register leaves the busy flags alone (R38). -/
@[simp] theorem Peripheral.storeCtrl_busy (p : Peripheral) (v : Word) (c : Chan) :
    (p.storeCtrl v).busy c = p.busy c := by
  cases c <;> rfl

/-- A write of a period register leaves the busy flags alone: raising one is the peripheral's own later move (R39). -/
@[simp] theorem Peripheral.storePeriod_busy (p : Peripheral) (d : Chan) (v : Word) (c : Chan) :
    (p.storePeriod d v).busy c = p.busy c := by
  cases c <;> cases d <;> rfl

@[simp] theorem Peripheral.storePeriod_ctrl (p : Peripheral) (d : Chan) (v : Word) :
    (p.storePeriod d v).ctrl = p.ctrl := by
  cases d <;> rfl

@[simp] theorem Peripheral.storePeriod_period (p : Peripheral) (c : Chan) (v : Word) :
    (p.storePeriod c v).period c = v := by
  cases c <;> rfl

theorem Peripheral.storePeriod_period_ne (p : Peripheral) (c d : Chan) (v : Word) (h : d ≠ c) :
    (p.storePeriod c v).period d = p.period d := by
  cases c <;> cases d <;> first | rfl | exact absurd rfl h

@[simp] theorem Peripheral.storeCtrl_period (p : Peripheral) (v : Word) (c : Chan) :
    (p.storeCtrl v).period c = p.period c := by
  cases c <;> rfl

/-- `b2n` bit by bit. -/
theorem b2w_getLsbD (b : Bool) (n : Nat) : (b2w b).getLsbD n = (decide (n = 0) && b) := by
  cases b <;> simp [b2w, BitVec.getLsbD_one]

@[simp] theorem b2w_getElem (b : Bool) (n : Nat) (h : n < 32) : (b2w b)[n] = (decide (n = 0) && b) := by
  rw [← BitVec.getLsbD_eq_getElem, b2w_getLsbD]

/-- The busy bit of a control-register read is the channel's busy flag (R37, R101). -/
@[simp] theorem busyBit_ctrlRead (p : Peripheral) (c : Chan) : busyBit c p.ctrlRead = p.busy c := by
  cases c <;>
    simp [busyBit, chanIndex, Peripheral.ctrlRead, Peripheral.busy, Config.busyMask]

/-! ## Setters -/

/-- Taking an updated count back gives the record as it was (R114, R115). -/
@[simp] theorem ChannelState.restore_setCycles (x : ChannelState) (f : CycleField) (v : Half) :
    (x.setCycles f v).restore ⟨f, x.cycles f⟩ = x := by
  cases f <;> rfl

@[simp] theorem ChannelState.setCycles_fields (x : ChannelState) (f : CycleField) (v : Half) :
    (x.setCycles f v).fields = x.fields := by
  cases f <;> rfl

@[simp] theorem ChannelState.restore_fields (x : ChannelState) (r : Rollback) : (x.restore r).fields = x.fields :=
  ChannelState.setCycles_fields x r.field r.old

@[simp] theorem ChannelState.setCycles_channelId (x : ChannelState) (f : CycleField) (v : Half) :
    (x.setCycles f v).channelId = x.channelId := by
  cases f <;> rfl

@[simp] theorem ChannelState.restore_channelId (x : ChannelState) (r : Rollback) :
    (x.restore r).channelId = x.channelId :=
  ChannelState.setCycles_channelId x r.field r.old

/-- `pack` reads only the packed fields (R90). -/
theorem pack_congr {a b a' b' : ChannelState} (h0 : a.fields = a'.fields) (h1 : b.fields = b'.fields) :
    pack a b = pack a' b' := by
  simp only [pack, fieldOf, h0, h1]

/-- A channel update that keeps the packed fields keeps the image (R90, R91). -/
theorem pack_setChan (s : State) (c : Chan) (x : ChannelState) (h : x.fields = (s.chan c).fields) :
    pack (s.setChan c x).ch0 (s.setChan c x).ch1 = pack s.ch0 s.ch1 := by
  cases c <;> exact pack_congr (by first | exact h | rfl) (by first | exact h | rfl)

/-! ## Operands -/

/-- RUN's operand check (R56): InvalidRange from 2 on. -/
theorem runOperand_cases (imm : Half) :
    (imm.toNat < 2 ∧ runOperand imm = .ok (imm == 1#16)) ∨ (2 ≤ imm.toNat ∧ runOperand imm = .error .invalidRange) := by
  by_cases h : imm.toNat ≥ 2
  · exact .inr ⟨h, by simp [runOperand, h]⟩
  · exact .inl ⟨by omega, by simp [runOperand, h]⟩

/-- POL's operand check (R56): ParseError from 256 on. -/
theorem polOperand_cases (imm : Half) :
    (imm.toNat ≤ 255 ∧ polOperand imm = .ok (imm != 0#16)) ∨ (255 < imm.toNat ∧ polOperand imm = .error .parseError) := by
  by_cases h : imm.toNat > 255
  · exact .inr ⟨h, by simp [polOperand, h]⟩
  · exact .inl ⟨by omega, by simp [polOperand, h]⟩

/-- PRESC's operand check (R56): the type before the range (R135). -/
theorem prescOperand_cases (imm : Half) :
    (imm.toNat ≤ 15 ∧ prescOperand imm = .ok (imm.extractLsb' 0 4)) ∨
    (15 < imm.toNat ∧ imm.toNat ≤ 255 ∧ prescOperand imm = .error .invalidRange) ∨
    (255 < imm.toNat ∧ prescOperand imm = .error .parseError) := by
  by_cases h : imm.toNat > 255
  · exact .inr (.inr ⟨h, by simp [prescOperand, h]⟩)
  · by_cases h' : imm.toNat > 15
    · exact .inr (.inl ⟨h', by omega, by simp [prescOperand, h, h']⟩)
    · exact .inl ⟨by omega, by simp [prescOperand, h, h']⟩

/-- A 4-bit code is never out of `set_prescale`'s range (R82). -/
theorem setPrescale_code (x : ChannelState) (code : Code) :
    x.setPrescale code.toNat = .ok { x with prescaleCode := code } := by
  have h := code.isLt
  simp [ChannelState.setPrescale, show ¬ code.toNat > 15 by omega]

/-! ## The period protocol -/

/-- Everything one turn of the protocol's loop can do (R105): timeout, poll again, or go on to the write. -/
theorem pollOnce_cases {c : Chan} {k : Nat} {r : Rollback} {s t : State} (h : pollOnce c k r s = .next t) :
    (s.params.pollLimit = some k ∧
      t = (s.setChan c ((s.chan c).restore r)).finish ⟨.hardwareTimeout, .unit, .channel c⟩) ∨
    (s.params.pollLimit ≠ some k ∧ s.hw.busy c = true ∧
      t = { s.logTx (.read s.params.ctrlAddr s.hw.ctrlRead) with phase := .poll c (k + 1) r }) ∨
    (s.params.pollLimit ≠ some k ∧ s.hw.busy c = false ∧
      t = { s.logTx (.read s.params.ctrlAddr s.hw.ctrlRead) with phase := .periodWrite c r }) := by
  unfold pollOnce at h
  by_cases hl : s.params.pollLimit = some k
  · rw [if_pos hl] at h
    exact .inl ⟨hl, (next_inj h).symm⟩
  · rw [if_neg hl] at h
    cases hb : s.hw.busy c <;> simp [State.readCtrl, State.portRead, hb] at h
    · exact .inr (.inr ⟨hl, rfl, h.symm⟩)
    · exact .inr (.inl ⟨hl, rfl, h.symm⟩)

/-- The loop always answers a next state: it times out, waits or goes on to the write (R105). -/
theorem pollOnce_next (c : Chan) (k : Nat) (r : Rollback) (s : State) : ∃ t, pollOnce c k r s = .next t := by
  unfold pollOnce
  split <;> exact ⟨_, rfl⟩

/-- The bound is reached (R104). -/
theorem pollOnce_timeout {c : Chan} {k : Nat} {r : Rollback} {s : State} (h : s.params.pollLimit = some k) :
    pollOnce c k r s =
      .next ((s.setChan c ((s.chan c).restore r)).finish ⟨.hardwareTimeout, .unit, .channel c⟩) := by
  simp [pollOnce, h, pollTimeout, raise_eq]

/-- Below the bound: one read; the next step polls again if it showed the flag set, and writes if it showed it clear
(R100, R102). -/
theorem pollOnce_reads {c : Chan} {k : Nat} {r : Rollback} {s : State} (h : s.params.pollLimit ≠ some k) :
    pollOnce c k r s =
      .next { s.logTx (.read s.params.ctrlAddr s.hw.ctrlRead) with
        phase := if s.hw.busy c then .poll c (k + 1) r else .periodWrite c r } := by
  simp [pollOnce, h, State.readCtrl, State.portRead]

/-- The flag is set: the next step polls again (R100). -/
theorem pollOnce_busy {c : Chan} {k : Nat} {r : Rollback} {s : State} (h : s.params.pollLimit ≠ some k)
    (hb : s.hw.busy c = true) :
    pollOnce c k r s =
      .next { s.logTx (.read s.params.ctrlAddr s.hw.ctrlRead) with phase := .poll c (k + 1) r } := by
  simp [pollOnce_reads h, hb]

/-- The flag is clear: the next step writes (R102). -/
theorem pollOnce_ready {c : Chan} {k : Nat} {r : Rollback} {s : State} (h : s.params.pollLimit ≠ some k)
    (hb : s.hw.busy c = false) :
    pollOnce c k r s =
      .next { s.logTx (.read s.params.ctrlAddr s.hw.ctrlRead) with phase := .periodWrite c r } := by
  simp [pollOnce_reads h, hb]

/-- The period write to a channel that is ready: one write, OK (R105). -/
theorem periodWrite_ready {c : Chan} {s : State} (hb : s.hw.busy c = false) :
    periodWrite c s =
      .next ((s.writePeriod c (periodPack (s.chan c).activeCycles (s.chan c).totalCycles)).finish
        ⟨.ok, .unit, .nothing⟩) := by
  simp [periodWrite, hb, complete_eq]

/-- The period write to a channel that is busy has no meaning (R39). -/
theorem periodWrite_refused {c : Chan} {s : State} (hb : s.hw.busy c = true) :
    periodWrite c s = .refused .periodWriteWhileBusy := by
  simp [periodWrite, hb]

/-- Everything the period write can do when it answers a next state. -/
theorem periodWrite_cases {c : Chan} {s t : State} (h : periodWrite c s = .next t) :
    s.hw.busy c = false ∧
      t = (s.writePeriod c (periodPack (s.chan c).activeCycles (s.chan c).totalCycles)).finish
        ⟨.ok, .unit, .nothing⟩ := by
  cases hb : s.hw.busy c
  · rw [periodWrite_ready hb] at h
    exact ⟨rfl, (next_inj h).symm⟩
  · rw [periodWrite_refused hb] at h
    cases h

/-! ## SNAPSHOT -/

/-- The address and the contents of the register a SNAPSHOT in progress reads next (R123). -/
def SnapshotReads.nextTx (s : State) : SnapshotReads → PortTx
  | .ctrl _ => .read s.params.periodAddr0 s.hw.period0
  | .period0 _ _ => .read s.params.periodAddr1 s.hw.period1
  | .period1 _ _ _ => .read s.params.pinmuxAddr s.hw.pinmux

/-- Everything one further read of a SNAPSHOT can do: it goes on, holding the word it has read, or ends with a record
(R123). -/
theorem snapshotStep_cases (p : SnapshotReads) (s : State) :
    (∃ q, q.txs s.params = p.txs s.params ++ [p.nextTx s] ∧
      snapshotStep p s = .next { s.logTx (p.nextTx s) with phase := .snapshot q }) ∨
    ∃ r, snapshotStep p s = .next ((s.logTx (p.nextTx s)).finish ⟨.ok, .snapshot r, .nothing⟩) := by
  cases p with
  | ctrl c => exact .inl ⟨.period0 c s.hw.period0, rfl, rfl⟩
  | period0 c p0 => exact .inl ⟨.period1 c p0 s.hw.period1, rfl, rfl⟩
  | period1 c p0 p1 => exact .inr ⟨_, rfl⟩

/-! ## Turns -/

/-- The block is about to write the period of channel `c` exactly in the phase `PeriodWrite` of that channel (R102). -/
theorem State.awaitsWrite_iff (s : State) (c : Chan) : s.awaitsWrite c = true ↔ ∃ r, s.phase = .periodWrite c r := by
  unfold State.awaitsWrite
  split
  · rename_i d r h
    rw [h]
    cases d <;> cases c <;> simp
  · rename_i h
    simp only [Bool.false_eq_true, false_iff, not_exists]
    exact fun r hr => h c r hr

/-- Everything a step can do when it answers a next state: a turn of the outside world, or of the block, see
`blockStep_cases` (R5, R105, R110). -/
theorem step_cases {s t : State} (h : step s = .next t) :
    s.params.wellFormed = true ∧
    ((∃ m rest, s.sched = .peripheral m :: rest ∧
        t = { s with sched := rest, hw := if s.allows m then s.hw.move m else s.hw }) ∨
     (∃ rest, s.sched = .construct :: rest ∧ t = { s with sched := rest }.construct) ∨
     (∃ rest, ((s.sched = [] ∧ rest = []) ∨ s.sched = .block :: rest) ∧ blockStep { s with sched := rest } = .next t)) := by
  unfold step at h
  split at h
  · refine ⟨by assumption, ?_⟩
    unfold turnStep at h
    split at h
    · rename_i hs
      refine .inr (.inr ⟨[], .inl ⟨hs, rfl⟩, ?_⟩)
      rw [← hs]; exact h
    · rename_i rest hs
      exact .inr (.inr ⟨rest, .inr hs, h⟩)
    · rename_i tn rest hn hs
      cases tn with
      | block => exact absurd rfl hn
      | peripheral m => exact .inl ⟨m, rest, hs, (next_inj h).symm⟩
      | construct => exact .inr (.inl ⟨rest, hs, (next_inj h).symm⟩)
  · cases h

/-- Everything the carrying out of an accepted word can do when it answers a next state (R110). -/
theorem carryOut_cases {w : Word} {s t : State} (h : carryOut w s = .next t) :
    s.alive = true ∧
    ((∃ r, decode w = .error r ∧ t = s.finish ⟨.illegalCommand, .unit, .word w⟩) ∨
     (∃ i, decode w = .ok i ∧ exec i s = .next t)) := by
  unfold carryOut at h
  split at h
  · refine ⟨by assumption, ?_⟩
    split at h
    · exact .inr ⟨_, by assumption, h⟩
    · exact .inl ⟨_, by assumption, (next_inj h).symm⟩
  · cases h

/-- Everything a turn of the block can do when it answers a next state (R16). -/
theorem blockStep_cases {s t : State} (h : blockStep s = .next t) :
    (s.phase = .idle ∧ s.cmds = [] ∧ t = s) ∨
    (∃ w rest, s.phase = .idle ∧ s.cmds = w :: rest ∧ carryOut w (s.accept w rest) = .next t) ∨
    (∃ w, s.phase = .exec w ∧ carryOut w s = .next t) ∨
    (∃ c k r, s.phase = .poll c k r ∧ pollOnce c k r s = .next t) ∨
    (∃ c r, s.phase = .periodWrite c r ∧ periodWrite c s = .next t) ∨
    (∃ p, s.phase = .snapshot p ∧ snapshotStep p s = .next t) := by
  unfold blockStep at h
  split at h
  · split at h
    · exact .inl ⟨by assumption, by assumption, (next_inj h).symm⟩
    · exact .inr (.inl ⟨_, _, by assumption, by assumption, h⟩)
  · exact .inr (.inr (.inl ⟨_, by assumption, h⟩))
  · exact .inr (.inr (.inr (.inl ⟨_, _, _, by assumption, h⟩)))
  · exact .inr (.inr (.inr (.inr (.inl ⟨_, _, by assumption, h⟩))))
  · exact .inr (.inr (.inr (.inr (.inr ⟨_, by assumption, h⟩))))

end Sys2Proof.Machine
end

