-- ==== Sys2Proof/Laws/Codec.lean ====
section
/-! SUPPORT. The bits of the control-register image that the peripheral owns (30_encoding.md R50, R51). -/

namespace Sys2Proof.Machine

/-- The bits of `busyMask`. -/
theorem busyMask_getLsbD (n : Nat) : Config.busyMask.getLsbD n = (decide (n = 28) || decide (n = 29)) := by
  by_cases h : n < 32
  · interval_cases n <;> decide
  · rw [BitVec.getLsbD_of_ge _ _ (by omega)]
    simp
    omega

/-- A channel's image has no bit from 10 on. -/
theorem fieldOf_high (x : ChannelState) (n : Nat) (h : 10 ≤ n) : (fieldOf x).getLsbD n = false := by
  by_cases hn : n < 32
  · interval_cases n <;> simp [fieldOf, ChannelFields.pack]
  · exact BitVec.getLsbD_of_ge _ _ (by omega)

/-- The image never sets a busy bit (R91). -/
theorem pack_busyMask (x y : ChannelState) : pack x y &&& ~~~Config.busyMask = pack x y := by
  apply BitVec.eq_of_getLsbD_eq
  intro i hi
  rw [BitVec.getLsbD_and, BitVec.getLsbD_not, busyMask_getLsbD]
  by_cases h : i = 28 ∨ i = 29
  · have : (pack x y).getLsbD i = false := by
      rcases h with rfl | rfl <;>
        simp only [pack, BitVec.getLsbD_or, BitVec.getLsbD_shiftLeft, fieldOf_high _ _ (Nat.le_add_left 10 _)] <;>
        simp
    simp [this]
  · have h1 : i ≠ 28 := fun e => h (.inl e)
    have h2 : i ≠ 29 := fun e => h (.inr e)
    simp [h1, h2, hi]

/-- A write of the image stores the image (R38). -/
theorem Peripheral.storeCtrl_pack (p : Peripheral) (x y : ChannelState) :
    p.storeCtrl (pack x y) = { p with ctrl := pack x y } := by
  simp only [storeCtrl, pack_busyMask]

end Sys2Proof.Machine
end

