-- ==== Sys2Proof/Laws/Decode.lean ====
section
/-! SUPPORT. The fields of a word and the word of the fields are inverse to each other (30_encoding.md R54). -/

namespace Sys2Proof

/-- The fields of the word of some fields are those fields: no field overlaps another. -/
@[simp] theorem CommandFields.ofWord_toWord (f : CommandFields) : ofWord f.toWord = f := by
  rcases f with ⟨op, z1, ch, z2, imm⟩
  simp only [ofWord, toWord, CommandFields.mk.injEq]
  refine ⟨?_, ?_, ?_, ?_, ?_⟩ <;> ext i hi <;> simp <;> simp (disch := omega) [BitVec.getLsbD_of_ge] <;> grind

/-- The word of the fields of a word is that word: the fields are all 32 bits. -/
@[simp] theorem CommandFields.toWord_ofWord (w : Word) : (ofWord w).toWord = w := by
  simp only [ofWord, toWord]
  ext i hi
  simp
  grind

/-- Words are equal exactly when their fields are. -/
theorem CommandFields.toWord_inj (f g : CommandFields) : f.toWord = g.toWord ↔ f = g :=
  ⟨fun h => by rw [← ofWord_toWord f, h, ofWord_toWord], fun h => h ▸ rfl⟩

@[simp] theorem Chan.ofBit_toBit (c : Chan) : Chan.ofBit c.toBit = c := by cases c <;> rfl

@[simp] theorem Chan.toBit_ofBit (b : BitVec 1) : (Chan.ofBit b).toBit = b := by revert b; decide

/-- The 16 operation codes. -/
theorem op_cases (op : BitVec 4) :
    op = 0#4 ∨ op = 1#4 ∨ op = 2#4 ∨ op = 3#4 ∨ op = 4#4 ∨ op = 5#4 ∨ op = 6#4 ∨ op = 7#4 ∨ op = 8#4 ∨ op = 9#4 ∨
      op = 10#4 ∨ op = 11#4 ∨ op = 12#4 ∨ op = 13#4 ∨ op = 14#4 ∨ op = 15#4 := by
  revert op; decide

end Sys2Proof
end

