-- ==== Sys2Proof/Laws/Exec.lean ====
section
/-! SUPPORT. What each command does, as one equation per case of its operand, and one inversion lemma for `exec`: everything a
command can do. -/

namespace Sys2Proof.Machine

/-! ## Equations of the meanings -/

theorem execRun_accepts (s : State) (c : Chan) (imm : Half) (h : imm.toNat < 2) :
    exec (.run c imm) s =
      .next ((s.setChan c ((s.chan c).setEnabled (imm == 1#16))).ctrlWrite.finish ⟨.ok, .unit, .nothing⟩) := by
  rcases runOperand_cases imm with ⟨-, e⟩ | ⟨h', -⟩
  · simp only [exec, execRun, e, complete_eq]
  · omega

theorem execRun_rejects (s : State) (c : Chan) (imm : Half) (h : 2 ≤ imm.toNat) :
    exec (.run c imm) s = .next (s.finish ⟨.invalidRange, .unit, .operand imm⟩) := by
  rcases runOperand_cases imm with ⟨h', -⟩ | ⟨-, e⟩
  · omega
  · simp only [exec, execRun, e, raise_eq]

theorem execPol_accepts (s : State) (c : Chan) (imm : Half) (h : imm.toNat ≤ 255) :
    exec (.pol c imm) s =
      .next ((s.setChan c ((s.chan c).setPolarity (imm != 0#16))).ctrlWrite.finish ⟨.ok, .unit, .nothing⟩) := by
  rcases polOperand_cases imm with ⟨-, e⟩ | ⟨h', -⟩
  · simp only [exec, execPol, e, complete_eq]
  · omega

theorem execPol_rejects (s : State) (c : Chan) (imm : Half) (h : 255 < imm.toNat) :
    exec (.pol c imm) s = .next (s.finish ⟨.parseError, .unit, .operand imm⟩) := by
  rcases polOperand_cases imm with ⟨h', -⟩ | ⟨-, e⟩
  · omega
  · simp only [exec, execPol, e, raise_eq]

theorem execPresc_accepts (s : State) (c : Chan) (imm : Half) (h : imm.toNat ≤ 15) :
    exec (.presc c imm) s =
      .next ((s.setChan c { s.chan c with prescaleCode := imm.extractLsb' 0 4 }).ctrlWrite.finish
        ⟨.ok, .unit, .nothing⟩) := by
  rcases prescOperand_cases imm with ⟨-, e⟩ | ⟨h', -⟩ | ⟨h', -⟩
  · simp only [exec, execPresc, e, setPrescale_code, complete_eq]
  · omega
  · omega

theorem execPresc_outOfRange (s : State) (c : Chan) (imm : Half) (h : 15 < imm.toNat) (h2 : imm.toNat ≤ 255) :
    exec (.presc c imm) s = .next (s.finish ⟨.invalidRange, .unit, .operand imm⟩) := by
  rcases prescOperand_cases imm with ⟨h', -⟩ | ⟨-, -, e⟩ | ⟨h', -⟩
  · omega
  · simp only [exec, execPresc, e, raise_eq]
  · omega

theorem execPresc_notAByte (s : State) (c : Chan) (imm : Half) (h : 255 < imm.toNat) :
    exec (.presc c imm) s = .next (s.finish ⟨.parseError, .unit, .operand imm⟩) := by
  rcases prescOperand_cases imm with ⟨h', -⟩ | ⟨-, h', -⟩ | ⟨-, e⟩
  · omega
  · omega
  · simp only [exec, execPresc, e, raise_eq]

theorem execEntire_polls (s : State) (c : Chan) (imm : Half) :
    exec (.entire c imm) s =
      pollOnce c 0 ⟨.total, (s.chan c).totalCycles⟩ (s.setChan c { s.chan c with totalCycles := imm }) := rfl

theorem execActive_polls (s : State) (c : Chan) (imm : Half) :
    exec (.active c imm) s =
      pollOnce c 0 ⟨.active, (s.chan c).activeCycles⟩ (s.setChan c { s.chan c with activeCycles := imm }) := rfl

theorem execFreqWr_rejects (s : State) (c : Chan) (imm : Half) :
    exec (.freqWr c imm) s = .next (s.finish ⟨.invalidRange, .unit, .operand imm⟩) := rfl

theorem execSnapshot_reads (s : State) :
    exec .snapshot s =
      .next { s.logTx (.read s.params.ctrlAddr s.hw.ctrlRead) with phase := .snapshot (.ctrl s.hw.ctrlRead) } := rfl

/-! ## Everything a command can do -/

/-- `y` is `x` after the setter of a control command: identity, counts, pulse start and bypass are kept, and clock gating and mode
are kept or at their defaults (10_state.md R24). -/
structure ChannelState.ControlChange (x y : ChannelState) : Prop where
  channelId : y.channelId = x.channelId
  activeCycles : y.activeCycles = x.activeCycles
  totalCycles : y.totalCycles = x.totalCycles
  keeps : x.KeepsDefaults → y.KeepsDefaults

theorem ChannelState.setEnabled_controlChange (x : ChannelState) (v : Bool) : x.ControlChange (x.setEnabled v) :=
  ⟨rfl, rfl, rfl, fun k => ⟨rfl, rfl, k.pulseStart, k.bypass⟩⟩

theorem ChannelState.setPolarity_controlChange (x : ChannelState) (v : Bool) : x.ControlChange (x.setPolarity v) :=
  ⟨rfl, rfl, rfl, fun k => ⟨k.clockGating, k.mode, k.pulseStart, k.bypass⟩⟩

theorem ChannelState.setCode_controlChange (x : ChannelState) (v : Code) :
    x.ControlChange { x with prescaleCode := v } :=
  ⟨rfl, rfl, rfl, fun k => ⟨k.clockGating, k.mode, k.pulseStart, k.bypass⟩⟩

theorem ChannelState.setCycles_keeps (x : ChannelState) (f : CycleField) (v : Half) (k : x.KeepsDefaults) :
    (x.setCycles f v).KeepsDefaults := by
  cases f <;> exact ⟨k.clockGating, k.mode, k.pulseStart, k.bypass⟩

/-- Everything a command can do (R45, R110): return a result and nothing else; write the control register after a change of one
channel; start the period protocol; start a SNAPSHOT; shut down. -/
theorem exec_cases {i : Instr} {s t : State} (h : exec i s = .next t) :
    (∃ r, t = s.finish r ∧ (r.status = .ok ∨ r.value = .unit)) ∨
    (∃ c x, (s.chan c).ControlChange x ∧ t = (s.setChan c x).ctrlWrite.finish ⟨.ok, .unit, .nothing⟩) ∨
    (∃ f c imm, ((f = .total ∧ i = .entire c imm) ∨ (f = .active ∧ i = .active c imm)) ∧
      pollOnce c 0 ⟨f, (s.chan c).cycles f⟩ (s.setChan c ((s.chan c).setCycles f imm)) = .next t) ∨
    (i = .snapshot ∧
      t = { s.logTx (.read s.params.ctrlAddr s.hw.ctrlRead) with phase := .snapshot (.ctrl s.hw.ctrlRead) }) ∨
    (i = .shutdown ∧ t = State.finish
      { State.ctrlWrite { s with ch0 := s.ch0.setEnabled false, ch1 := s.ch1.setEnabled false } with alive := false }
      ⟨.ok, .unit, .nothing⟩) := by
  cases i with
  | run c imm =>
    by_cases hi : imm.toNat < 2
    · rw [execRun_accepts s c imm hi] at h
      exact .inr (.inl ⟨c, _, ChannelState.setEnabled_controlChange _ _, (next_inj h).symm⟩)
    · rw [execRun_rejects s c imm (by omega)] at h
      exact .inl ⟨_, (next_inj h).symm, .inr rfl⟩
  | pol c imm =>
    by_cases hi : imm.toNat ≤ 255
    · rw [execPol_accepts s c imm hi] at h
      exact .inr (.inl ⟨c, _, ChannelState.setPolarity_controlChange _ _, (next_inj h).symm⟩)
    · rw [execPol_rejects s c imm (by omega)] at h
      exact .inl ⟨_, (next_inj h).symm, .inr rfl⟩
  | presc c imm =>
    by_cases hi : imm.toNat ≤ 15
    · rw [execPresc_accepts s c imm hi] at h
      exact .inr (.inl ⟨c, _, ChannelState.setCode_controlChange _ _, (next_inj h).symm⟩)
    · by_cases hj : imm.toNat ≤ 255
      · rw [execPresc_outOfRange s c imm (by omega) hj] at h
        exact .inl ⟨_, (next_inj h).symm, .inr rfl⟩
      · rw [execPresc_notAByte s c imm (by omega)] at h
        exact .inl ⟨_, (next_inj h).symm, .inr rfl⟩
  | entire c imm => exact .inr (.inr (.inl ⟨.total, c, imm, .inl ⟨rfl, rfl⟩, h⟩))
  | active c imm => exact .inr (.inr (.inl ⟨.active, c, imm, .inr ⟨rfl, rfl⟩, h⟩))
  | freqWr c imm => exact .inl ⟨_, (next_inj h).symm, .inr rfl⟩
  | rdRun c => exact .inl ⟨_, (next_inj h).symm, .inl rfl⟩
  | rdPol c => exact .inl ⟨_, (next_inj h).symm, .inl rfl⟩
  | rdPresc c => exact .inl ⟨_, (next_inj h).symm, .inl rfl⟩
  | rdEntire c => exact .inl ⟨_, (next_inj h).symm, .inl rfl⟩
  | rdActive c => exact .inl ⟨_, (next_inj h).symm, .inl rfl⟩
  | rdFreq c => exact .inl ⟨_, (next_inj h).symm, .inl rfl⟩
  | snapshot =>
    rw [execSnapshot_reads] at h
    exact .inr (.inr (.inr (.inl ⟨rfl, (next_inj h).symm⟩)))
  | shutdown => exact .inr (.inr (.inr (.inr ⟨rfl, (next_inj h).symm⟩)))

/-- Every command answers a next state. -/
theorem exec_next (i : Instr) (s : State) : ∃ t, exec i s = .next t := by
  cases i with
  | run c imm =>
    by_cases hi : imm.toNat < 2
    · exact ⟨_, execRun_accepts s c imm hi⟩
    · exact ⟨_, execRun_rejects s c imm (by omega)⟩
  | pol c imm =>
    by_cases hi : imm.toNat ≤ 255
    · exact ⟨_, execPol_accepts s c imm hi⟩
    · exact ⟨_, execPol_rejects s c imm (by omega)⟩
  | presc c imm =>
    by_cases hi : imm.toNat ≤ 15
    · exact ⟨_, execPresc_accepts s c imm hi⟩
    · by_cases hj : imm.toNat ≤ 255
      · exact ⟨_, execPresc_outOfRange s c imm (by omega) hj⟩
      · exact ⟨_, execPresc_notAByte s c imm (by omega)⟩
  | entire c imm => exact pollOnce_next _ _ _ _
  | active c imm => exact pollOnce_next _ _ _ _
  | freqWr c imm => exact ⟨_, rfl⟩
  | rdRun c => exact ⟨_, rfl⟩
  | rdPol c => exact ⟨_, rfl⟩
  | rdPresc c => exact ⟨_, rfl⟩
  | rdEntire c => exact ⟨_, rfl⟩
  | rdActive c => exact ⟨_, rfl⟩
  | rdFreq c => exact ⟨_, rfl⟩
  | snapshot => exact ⟨_, rfl⟩
  | shutdown => exact ⟨_, rfl⟩

/-- Everything a turn of the block can do when it answers a next state, with the acceptance of a word folded in: it waits, ends an
illegal word, carries out a command (`u` is the state with the word accepted), or goes on with the one in progress. -/
theorem blockStep_effects {s t : State} (h : blockStep s = .next t) :
    (s.phase = .idle ∧ s.cmds = [] ∧ t = s) ∨
    (∃ w u, ((s.phase = .idle ∧ s.cmds = w :: u.cmds ∧ u = s.accept w u.cmds) ∨ (s.phase = .exec w ∧ u = s)) ∧
      s.alive = true ∧
      ((∃ r, decode w = .error r ∧ t = u.finish ⟨.illegalCommand, .unit, .word w⟩) ∨
       ∃ i, decode w = .ok i ∧ exec i u = .next t)) ∨
    (∃ c k r, s.phase = .poll c k r ∧ pollOnce c k r s = .next t) ∨
    (∃ c r, s.phase = .periodWrite c r ∧ s.hw.busy c = false ∧
      t = (s.writePeriod c (periodPack (s.chan c).activeCycles (s.chan c).totalCycles)).finish
        ⟨.ok, .unit, .nothing⟩) ∨
    (∃ p, s.phase = .snapshot p ∧
      ((∃ q, q.txs s.params = p.txs s.params ++ [p.nextTx s] ∧
          t = { s.logTx (p.nextTx s) with phase := .snapshot q }) ∨
        ∃ r, t = (s.logTx (p.nextTx s)).finish ⟨.ok, .snapshot r, .nothing⟩)) := by
  rcases blockStep_cases h with h | ⟨w, rest, hp, hc, h⟩ | ⟨w, hp, h⟩ | h | ⟨c, r, hp, h⟩ | ⟨p, hp, h⟩
  · exact .inl h
  · obtain ⟨ha, h⟩ := carryOut_cases h
    exact .inr (.inl ⟨w, s.accept w rest, .inl ⟨hp, hc, rfl⟩, ha, h⟩)
  · obtain ⟨ha, h⟩ := carryOut_cases h
    exact .inr (.inl ⟨w, s, .inr ⟨hp, rfl⟩, ha, h⟩)
  · exact .inr (.inr (.inl h))
  · exact .inr (.inr (.inr (.inl ⟨c, r, hp, periodWrite_cases h⟩)))
  · refine .inr (.inr (.inr (.inr ⟨p, hp, ?_⟩)))
    rcases snapshotStep_cases p s with ⟨q, hq, e⟩ | ⟨r, e⟩
    · exact .inl ⟨q, hq, next_inj (h.symm.trans e)⟩
    · exact .inr ⟨r, next_inj (h.symm.trans e)⟩

end Sys2Proof.Machine
end

