-- ==== Sys2Proof/Laws/PerInstr.lean ====
section
/-! SUPPORT. Statements made per instruction, one lemma per constructor. -/

namespace Sys2Proof.Laws

/-- The fields a command is encoded with pass the five checks of 30_encoding.md R57. -/
def EncodedFieldsLegal.Statement (i : Instr) : Prop := i.fields.wellFormed = true

theorem EncodedFieldsLegal.run (c : Chan) (imm : Half) : EncodedFieldsLegal.Statement (.run c imm) := by
  cases c <;> rfl

theorem EncodedFieldsLegal.pol (c : Chan) (imm : Half) : EncodedFieldsLegal.Statement (.pol c imm) := by
  cases c <;> rfl

theorem EncodedFieldsLegal.presc (c : Chan) (imm : Half) : EncodedFieldsLegal.Statement (.presc c imm) := by
  cases c <;> rfl

theorem EncodedFieldsLegal.entire (c : Chan) (imm : Half) : EncodedFieldsLegal.Statement (.entire c imm) := by
  cases c <;> rfl

theorem EncodedFieldsLegal.active (c : Chan) (imm : Half) : EncodedFieldsLegal.Statement (.active c imm) := by
  cases c <;> rfl

theorem EncodedFieldsLegal.freqWr (c : Chan) (imm : Half) : EncodedFieldsLegal.Statement (.freqWr c imm) := by
  cases c <;> rfl

theorem EncodedFieldsLegal.rdRun (c : Chan) : EncodedFieldsLegal.Statement (.rdRun c) := by cases c <;> rfl

theorem EncodedFieldsLegal.rdPol (c : Chan) : EncodedFieldsLegal.Statement (.rdPol c) := by cases c <;> rfl

theorem EncodedFieldsLegal.rdPresc (c : Chan) : EncodedFieldsLegal.Statement (.rdPresc c) := by cases c <;> rfl

theorem EncodedFieldsLegal.rdEntire (c : Chan) : EncodedFieldsLegal.Statement (.rdEntire c) := by cases c <;> rfl

theorem EncodedFieldsLegal.rdActive (c : Chan) : EncodedFieldsLegal.Statement (.rdActive c) := by cases c <;> rfl

theorem EncodedFieldsLegal.rdFreq (c : Chan) : EncodedFieldsLegal.Statement (.rdFreq c) := by cases c <;> rfl

theorem EncodedFieldsLegal.snapshot : EncodedFieldsLegal.Statement .snapshot := by rfl

theorem EncodedFieldsLegal.shutdown : EncodedFieldsLegal.Statement .shutdown := by rfl

end Sys2Proof.Laws
end

