-- ==== Sys2Proof/Laws/Run.lean ====
section
/-! SUPPORT. A turn of the block, what every command keeps, and runs of many steps. -/

namespace Sys2Proof.Machine

/-- On the block's turn, a step is the block's step with the turn taken (00_scope.md R5). -/
theorem step_block {s : State} {rest : List Turn} (hp : s.params.wellFormed = true) (hb : s.BlocksTurn rest) :
    step s = blockStep { s with sched := rest } := by
  unfold step turnStep
  rw [if_pos hp]
  rcases hb with ⟨h, rfl⟩ | h
  · rw [h]; dsimp only; rw [← h]
  · rw [h]

/-- A bound the spec allows is at least one poll (R3). -/
theorem Params.limit_pos {p : Params} (h : p.wellFormed = true) : p.pollLimit ≠ some 0 := by
  intro h0
  simp [wellFormed, h0] at h

/-- A command keeps the parameters, the host's list and the turns. -/
theorem exec_keeps {i : Instr} {s t : State} (h : exec i s = .next t) :
    t.params = s.params ∧ t.cmds = s.cmds ∧ t.sched = s.sched := by
  rcases exec_cases h with ⟨r, rfl, -⟩ | ⟨c, x, -, rfl⟩ | ⟨f, c, imm, -, hp⟩ | ⟨-, v, rfl⟩ | ⟨-, rfl⟩
  · simp
  · simp
  · rcases pollOnce_cases hp with ⟨-, rfl⟩ | ⟨-, -, rfl⟩ | ⟨-, -, rfl⟩ <;> simp
  · simp
  · simp

/-- A command keeps the busy flags (R106). -/
theorem exec_busy {i : Instr} {s t : State} (c : Chan) (h : exec i s = .next t) : t.hw.busy c = s.hw.busy c := by
  rcases exec_cases h with ⟨r, rfl, -⟩ | ⟨d, x, -, rfl⟩ | ⟨f, d, imm, -, hp⟩ | ⟨-, v, rfl⟩ | ⟨-, rfl⟩
  · simp
  · simp
  · rcases pollOnce_cases hp with ⟨-, rfl⟩ | ⟨-, -, rfl⟩ | ⟨-, -, rfl⟩ <;> simp
  · simp
  · simp

/-- A command returns one result and ends, or returns none and waits (R17). -/
theorem exec_results {i : Instr} {s t : State} (h : exec i s = .next t) :
    (t.results = s.results ∧ t.index = s.index) ∨
    (t.phase = .idle ∧ t.index = s.index + 1 ∧ ∃ r, t.results = s.results ++ [r]) := by
  rcases exec_cases h with ⟨r, rfl, -⟩ | ⟨c, x, -, rfl⟩ | ⟨f, c, imm, -, hp⟩ | ⟨-, v, rfl⟩ | ⟨-, rfl⟩
  · simp
  · simp
  · rcases pollOnce_cases hp with ⟨-, rfl⟩ | ⟨-, -, rfl⟩ | ⟨-, -, rfl⟩ <;> simp
  · simp
  · simp

/-- A turn of the block keeps the parameters and the rest of the turns (R3, R5). -/
theorem blockStep_keeps {s t : State} (h : blockStep s = .next t) : t.params = s.params ∧ t.sched = s.sched := by
  rcases blockStep_effects h with
    ⟨-, -, rfl⟩ | ⟨w, u, hu, -, hw⟩ | ⟨c, k, r, -, hp⟩ | ⟨c, r, -, -, rfl⟩ | ⟨p, -, ⟨q, -, rfl⟩ | ⟨r, rfl⟩⟩
  · exact ⟨rfl, rfl⟩
  · have e : u.params = s.params ∧ u.sched = s.sched := by
      rcases hu with ⟨-, -, hu⟩ | ⟨-, hu⟩ <;> rw [hu] <;> exact ⟨rfl, rfl⟩
    rw [← e.1, ← e.2]
    rcases hw with ⟨r, -, rfl⟩ | ⟨i, -, he⟩
    · exact ⟨rfl, rfl⟩
    · exact ⟨(exec_keeps he).1, (exec_keeps he).2.2⟩
  · rcases pollOnce_cases hp with ⟨-, rfl⟩ | ⟨-, -, rfl⟩ | ⟨-, -, rfl⟩ <;> simp
  · simp
  · simp
  · simp

/-- A turn of the block keeps the busy flags (R106). -/
theorem blockStep_busy {s t : State} (c : Chan) (h : blockStep s = .next t) : t.hw.busy c = s.hw.busy c := by
  rcases blockStep_effects h with
    ⟨-, -, rfl⟩ | ⟨w, u, hu, -, hw⟩ | ⟨d, k, r, -, hp⟩ | ⟨d, r, -, -, rfl⟩ | ⟨p, -, ⟨q, -, rfl⟩ | ⟨r, rfl⟩⟩
  · rfl
  · have e : u.hw = s.hw := by
      rcases hu with ⟨-, -, hu⟩ | ⟨-, rfl⟩
      · rw [hu, State.accept_hw]
      · rfl
    rw [← e]
    rcases hw with ⟨r, -, rfl⟩ | ⟨i, -, he⟩
    · rfl
    · exact exec_busy c he
  · rcases pollOnce_cases hp with ⟨-, rfl⟩ | ⟨-, -, rfl⟩ | ⟨-, -, rfl⟩ <;> simp
  · simp
  · simp
  · simp

/-- On a turn of the peripheral, a step is its move, if it can be made now (R37, R102). -/
theorem step_peripheral {s : State} {m : PeripheralMove} {rest : List Turn} (hp : s.params.wellFormed = true)
    (hs : s.sched = .peripheral m :: rest) :
    step s = .next { s with sched := rest, hw := if s.allows m then s.hw.move m else s.hw } := by
  simp only [step, hp, turnStep, hs]
  rfl

/-- When the period write is next and the channel is ready, the block's step makes it (R105). -/
theorem step_periodWrite {s : State} {c : Chan} {r : Rollback} {rest : List Turn} (hp : s.params.wellFormed = true)
    (hb : s.BlocksTurn rest) (hph : s.phase = .periodWrite c r) (hbusy : s.hw.busy c = false) :
    step s = .next ((State.writePeriod { s with sched := rest } c
      (periodPack (s.chan c).activeCycles (s.chan c).totalCycles)).finish ⟨.ok, .unit, .nothing⟩) := by
  rw [step_block hp hb]
  simp only [blockStep, hph]
  rw [periodWrite_ready (by exact hbusy)]
  cases c <;> rfl

/-! ## Runs -/

theorem run_zero (s : State) : core.run 0 s = .next s := rfl

theorem run_next {s t : State} (n : Nat) (h : step s = .next t) : core.run (n + 1) s = core.run n t := by
  have h' : core.step s = .next t := h
  simp only [Host.Core.run, h']

theorem run_add (a : Nat) : ∀ (b : Nat) (s t : State), core.run a s = .next t → core.run (a + b) s = core.run b t := by
  induction a with
  | zero =>
    intro b s t h
    rw [next_inj ((run_zero s).symm.trans h), Nat.zero_add]
  | succ a ih =>
    intro b s t h
    rw [Nat.add_right_comm]
    simp only [Host.Core.run] at h ⊢
    split at h
    · exact ih _ _ _ h
    · cases h
    · cases h

end Sys2Proof.Machine
end

