-- ==== Sys2Proof/Tests/Slice0.lean ====
section
/-! SUPPORT. Tests of the model. The expected values are the spec's own vectors (95_test_vectors.md, named at each test) or
written out by hand from its tables. After them a witness for each statement that has hypotheses: a concrete state and operands
that meet them all, at the boundary of each clause. -/

namespace Sys2Proof.Tests

open Sys2Proof.Machine

/-! ## Helpers -/

/-- A peripheral whose control register holds `ctrl` and whose busy flags are as given; a period write has gone before. -/
def hw0 (ctrl : Word) (busy0 busy1 : Bool) : Peripheral := ⟨ctrl, 0x00630032#32, 0#32, 0xABCD#32, busy0, busy1, true, true⟩

/-- Parameters with four distinct multiples of 4, the control register not at the lowest. -/
def ps (limit : Option Nat) : Params := ⟨0x104, 0x108, 0x10C, 0x40, limit⟩

/-- The machine right after construction, nothing busy, no bound on polling. -/
def s0 : State := State.launch (ps none) (hw0 0x00310062#32 false false)

/-- The same with channel 0 busy and at most `n` polls. -/
def busy0 (n : Nat) : State := State.launch (ps (some n)) (hw0 0x00310062#32 true false)

/-- The next state, where there is one. -/
def next? : Host.Outcome State Fault Refusal → Option State
  | .next s => some s
  | _ => none

/-- The refusal, where there is one. -/
def refusal? : Host.Outcome State Fault Refusal → Option Refusal
  | .refused r => some r
  | _ => none

/-- One step with the word `w` on CMD: the status, the value and the PORT transactions of the step. -/
def runs (s : State) (w : Word) : Option (List (Status × Value) × List PortTx) :=
  (next? (step (s.present w))).map (fun t => (t.results.map (fun r => (r.status, r.value)), t.portLog))

/-- One step of `s`: the phase, the statuses and values returned, and the PORT transactions. -/
def afterStep (s : State) : Option (Phase × List (Status × Value) × List PortTx) :=
  (next? (step s)).map (fun t => (t.phase, t.results.map (fun r => (r.status, r.value)), t.portLog))

/-- The channel records after one step with the word `w` on CMD. -/
def chans (s : State) (w : Word) : Option (ChannelState × ChannelState) :=
  (next? (step (s.present w))).map (fun t => (t.ch0, t.ch1))

/-! ## Well-formedness: an ill-formed word for each check (VD1 to VD8) -/

theorem test_wf_op0 : (CommandFields.ofWord 0x00000000#32).wellFormed = false := by decide
theorem test_wf_opF : (CommandFields.ofWord 0xF0000000#32).wellFormed = false := by decide
theorem test_wf_z1 : (CommandFields.ofWord 0x12000001#32).wellFormed = false := by decide
theorem test_wf_z2 : (CommandFields.ofWord 0x10010001#32).wellFormed = false := by decide
theorem test_wf_imm : (CommandFields.ofWord 0x70000001#32).wellFormed = false := by decide
theorem test_wf_ch : (CommandFields.ofWord 0xD1000000#32).wellFormed = false := by decide
theorem test_wf_shutdown_imm : (CommandFields.ofWord 0xE0000001#32).wellFormed = false := by decide
theorem test_wf_accepts : (CommandFields.ofWord 0x11000001#32).wellFormed = true := by decide

theorem test_decode_refuses_by_name :
    decode 0xFFFFFFFF#32 = .error .z1NotZero ∧ decode 0xF0000000#32 = .error .unassignedOp ∧
      decode 0x12000001#32 = .error .z1NotZero ∧ decode 0x10010001#32 = .error .z2NotZero ∧
      decode 0x70000001#32 = .error .immNotZero ∧ decode 0xD1000000#32 = .error .chNotZero := by decide

/-! ## Decoding: one word per command, written out from R54 and R55 as op, z1, ch, z2, imm -/

theorem test_decode_run : decode 0b0001_000_1_00000000_0000000000000001#32 = .ok (.run .ch1 1#16) := by decide
theorem test_decode_pol : decode 0b0010_000_0_00000000_0000000011111111#32 = .ok (.pol .ch0 255#16) := by decide
theorem test_decode_presc : decode 0b0011_000_1_00000000_0000000000001001#32 = .ok (.presc .ch1 9#16) := by decide
theorem test_decode_entire : decode 0b0100_000_0_00000000_0000000001100011#32 = .ok (.entire .ch0 99#16) := by decide
theorem test_decode_active : decode 0b0101_000_1_00000000_1111111111111111#32 = .ok (.active .ch1 65535#16) := by decide
theorem test_decode_freqWr : decode 0b0110_000_0_00000000_0000001111101000#32 = .ok (.freqWr .ch0 1000#16) := by decide
theorem test_decode_rdRun : decode 0b0111_000_1_00000000_0000000000000000#32 = .ok (.rdRun .ch1) := by decide
theorem test_decode_rdPol : decode 0b1000_000_1_00000000_0000000000000000#32 = .ok (.rdPol .ch1) := by decide
theorem test_decode_rdPresc : decode 0b1001_000_0_00000000_0000000000000000#32 = .ok (.rdPresc .ch0) := by decide
theorem test_decode_rdEntire : decode 0b1010_000_0_00000000_0000000000000000#32 = .ok (.rdEntire .ch0) := by decide
theorem test_decode_rdActive : decode 0b1011_000_1_00000000_0000000000000000#32 = .ok (.rdActive .ch1) := by decide
theorem test_decode_rdFreq : decode 0b1100_000_0_00000000_0000000000000000#32 = .ok (.rdFreq .ch0) := by decide
theorem test_decode_snapshot : decode 0b1101_000_0_00000000_0000000000000000#32 = .ok .snapshot := by decide
theorem test_decode_shutdown : decode 0b1110_000_0_00000000_0000000000000000#32 = .ok .shutdown := by decide

theorem test_encode_presc : encode (.presc .ch1 9#16) = 0x31000009#32 := by decide

theorem test_decodeTableWord :
    decodeTableWord 32 0x31000009 = some (.presc .ch1 9#16) ∧ decodeTableWord 32 0xF0000000 = none ∧
      decodeTableWord 16 0x31000009 = none := by decide

/-! ## The pure units -/

/-- VF1, VF7, VF18, VF19, VF20, VF21. -/
theorem test_frequency :
    outputFrequency 2#4 99#16 = .hz 1000#32 ∧ outputFrequency 1#4 0#16 = .hz 133333#32 ∧
      outputFrequency 12#4 333#16 = .hz 0#32 ∧ outputFrequency 12#4 65535#16 = .hz 0#32 ∧
      outputFrequency 15#4 0#16 = .hz 24000000#32 ∧ outputFrequency 15#4 65535#16 = .hz 366#32 := by decide

/-- VF22, VF23. -/
theorem test_frequency_undefined :
    outputFrequency 5#4 0#16 = .undefined ∧ outputFrequency 13#4 7#16 = .undefined := by decide

/-- VK17 and VK24. -/
theorem test_pack :
    packFields ⟨0#4, false, false, false, .continuous, false, false⟩ ⟨15#4, true, true, true, .singlePulse, true, true⟩
        = 0x01FF8000#32 ∧
      pack { ChannelState.reset .ch0 with enabled := true }
        { ChannelState.reset .ch1 with polarity := false, prescaleCode := 9#4 } = 0x00248072#32 := by decide

/-- VU8. -/
theorem test_unpack :
    unpack 0xDEADBEEF#32 =
      ⟨⟨15#4, false, true, true, .singlePulse, false, true⟩, ⟨11#4, true, false, true, .continuous, true, false⟩, true,
        false⟩ := by decide

/-- VR2 and VR7. -/
theorem test_periodPack :
    periodPack 50#16 99#16 = 0x00630032#32 ∧ periodUnpack 0xABCD1234#32 = ⟨0x1234#16, 0xABCD#16⟩ := by decide

/-- VS2: the resets fire on disabling too, and the other five fields are kept. -/
theorem test_setEnabled :
    (⟨.ch1, false, false, false, .singlePulse, true, true, 9#4, 50#16, 99#16⟩ : ChannelState).setEnabled false =
      ⟨.ch1, false, true, true, .continuous, true, true, 2#4, 50#16, 99#16⟩ := by decide

/-! ## Commands, one step each (VC1 to VC28) -/

/-- VC2: the other channel's fields are in the word written. -/
theorem test_run : runs s0 0x11000001#32 = some ([(.ok, .unit)], [.write 0x104 0x00390062#32]) := by decide

/-- VC4. -/
theorem test_run_rejects : runs s0 0x10000002#32 = some ([(.invalidRange, .unit)], []) := by decide

/-- VC6. -/
theorem test_pol : runs s0 0x20000000#32 = some ([(.ok, .unit)], [.write 0x104 0x00310042#32]) := by decide

/-- VC8. -/
theorem test_pol_rejects : runs s0 0x20000100#32 = some ([(.parseError, .unit)], []) := by decide

/-- VC9. -/
theorem test_presc : runs s0 0x31000009#32 = some ([(.ok, .unit)], [.write 0x104 0x00348062#32]) := by decide

/-- VC13 and VC14: the type before the range. -/
theorem test_presc_rejects :
    runs s0 0x300000FF#32 = some ([(.invalidRange, .unit)], []) ∧
      runs s0 0x30000100#32 = some ([(.parseError, .unit)], []) := by decide

/-- VC15, its first step: a fresh read, no result yet, the new count in place and the old one kept. -/
theorem test_entire :
    afterStep (s0.present 0x40000063#32) = some (.periodWrite .ch0 ⟨.total, 0#16⟩, [], [.read 0x104 0x00310062#32]) ∧
      (chans s0 0x40000063#32).map (fun x => x.1.totalCycles) = some 99#16 := by decide

/-- VW7's first poll: one read, no result, the new count in place. -/
theorem test_entire_waits :
    (next? (step ((busy0 3).present 0x40000005#32))).map (fun t => (t.phase, t.ch0.totalCycles, t.results, t.portLog)) =
      some (.poll .ch0 1 ⟨.total, 0#16⟩, 5#16, [], [.read 0x104 0x10310062#32]) := by decide

/-- VC16, its first step. -/
theorem test_active :
    afterStep (s0.present 0x51000007#32) =
      some (.periodWrite .ch1 ⟨.active, 0#16⟩, [], [.read 0x104 0x00310062#32]) := by decide

/-- VW3: channel 1's busy flag does not hold channel 0. -/
theorem test_active_other_busy :
    afterStep ((State.launch (ps none) (hw0 0x00310062#32 false true)).present 0x50000001#32) =
      some (.periodWrite .ch0 ⟨.active, 0#16⟩, [], [.read 0x104 0x20310062#32]) := by decide

/-- Channel `c` has been seen ready: its read of the control register stands in the log, its period write is next. -/
def ready (s : State) (c : Chan) (r : Rollback) : State :=
  { s with phase := .periodWrite c r, portLog := [.read 0x104 s.hw.ctrlRead] }

/-- VC15 and VC16, the second step: one write, with the count that was not changed kept. -/
theorem test_period_write :
    afterStep { ready s0 .ch0 ⟨.total, 0#16⟩ with ch0 := { s0.ch0 with totalCycles := 99#16 } } =
        some (.idle, [(.ok, .unit)], [.read 0x104 0x00310062#32, .write 0x108 0x00630000#32]) ∧
      afterStep { ready s0 .ch1 ⟨.active, 0#16⟩ with ch1 := { s0.ch1 with activeCycles := 7#16 } } =
        some (.idle, [(.ok, .unit)], [.read 0x104 0x00310062#32, .write 0x10C 0x00000007#32]) := by decide

/-- Between the poll that showed channel 0 ready and its write, the peripheral can raise the flag of channel 1, but not that of
channel 0 (R102). -/
theorem test_no_raise_before_the_write :
    (next? (step { ready s0 .ch0 ⟨.total, 0#16⟩ with sched := [.peripheral (.raiseBusy .ch0)] })).map
        (fun t => t.hw.busy .ch0) = some false ∧
      (next? (step { ready s0 .ch0 ⟨.total, 0#16⟩ with sched := [.peripheral (.raiseBusy .ch1)] })).map
        (fun t => t.hw.busy .ch1) = some true := by decide

/-- VC18. -/
theorem test_freqWr : runs s0 0x600003E8#32 = some ([(.invalidRange, .unit)], []) := by decide

/-- VC19. -/
theorem test_rdRun : runs s0 0x70000000#32 = some ([(.ok, .bit 0#1)], []) := by decide

/-- VC20. -/
theorem test_rdPol : runs s0 0x81000000#32 = some ([(.ok, .bit 1#1)], []) := by decide

/-- VC21. -/
theorem test_rdPresc : runs s0 0x90000000#32 = some ([(.ok, .code 2#4)], []) := by decide

/-- VC22, on a channel whose two counts differ. -/
theorem test_rdEntire :
    runs { s0 with ch0 := { s0.ch0 with activeCycles := 50#16, totalCycles := 99#16 } } 0xA0000000#32 =
      some ([(.ok, .count 99#16)], []) := by decide

/-- VC23, on a channel whose two counts differ. -/
theorem test_rdActive :
    runs { s0 with ch1 := { s0.ch1 with activeCycles := 50#16, totalCycles := 99#16 } } 0xB1000000#32 =
      some ([(.ok, .count 50#16)], []) := by decide

/-- VC24. -/
theorem test_rdFreq : runs s0 0xC0000000#32 = some ([(.ok, .frequency (.hz 100000#32))], []) := by decide

/-- VC25. -/
theorem test_rdFreq_undefined :
    runs { s0 with ch0 := { s0.ch0 with prescaleCode := 5#4 } } 0xC0000000#32 =
      some ([(.ok, .frequency .undefined)], []) := by decide

/-- VC26, its first and its last read, on a peripheral that has moved between them: the record shows each register as it was
when it was read. -/
theorem test_snapshot :
    afterStep ((State.launch (ps none) (hw0 0x00310062#32 false true)).present 0xD0000000#32) =
        some (.snapshot (.ctrl 0x20310062#32), [], [.read 0x104 0x20310062#32]) ∧
      afterStep { s0 with phase := .snapshot (.period1 0x20310062#32 0x00630032#32 0#32) } =
        some (.idle,
          [(.ok, .snapshot ⟨0x20310062#32, ⟨⟨2#4, false, true, true, .continuous, false, false⟩,
            ⟨2#4, false, true, true, .continuous, false, false⟩, false, true⟩, 0x00630032#32, 0#32, ⟨50#16, 99#16⟩,
            ⟨0#16, 0#16⟩, 0xABCD#32⟩)],
          [.read 0x40 0xABCD#32]) := by decide

/-- VC26, the two reads in between: period 0, then period 1. -/
theorem test_snapshot_periods :
    afterStep { s0 with phase := .snapshot (.ctrl 1#32) } =
        some (.snapshot (.period0 1#32 0x00630032#32), [], [.read 0x108 0x00630032#32]) ∧
      afterStep { s0 with phase := .snapshot (.period0 1#32 2#32) } =
        some (.snapshot (.period1 1#32 2#32 0#32), [], [.read 0x10C 0#32]) := by decide

/-- VC27. -/
theorem test_shutdown : runs s0 0xE0000000#32 = some ([(.ok, .unit)], [.write 0x104 0x00310062#32]) := by decide

/-- VC28. -/
theorem test_shutdown_refuses_after :
    refusal? (step { s0 with alive := false, cmds := [0x70000000#32] }) = some .commandAfterShutdown := by decide

/-- VC17, its last step: the bound is reached, the old count comes back, nothing is written. -/
theorem test_timeout :
    (next? (step { busy0 3 with
      phase := .poll .ch0 3 ⟨.total, 7#16⟩, ch0 := { (busy0 3).ch0 with totalCycles := 5#16 } })).map
      (fun t => (t.results.map Completion.status, t.ch0.totalCycles, t.portLog)) =
      some ([.hardwareTimeout], 7#16, []) := by decide

/-- VD1: an illegal word. -/
theorem test_illegal : runs s0 0x00000000#32 = some ([(.illegalCommand, .unit)], []) := by decide

/-- VC1: the channel record after RUN 0, 1. -/
theorem test_run_record :
    chans s0 0x10000001#32 = some ({ ChannelState.reset .ch0 with enabled := true }, ChannelState.reset .ch1) := by decide

/-- `HW_CTRL` keeps no busy bit, and the ten padding bits are stored as written (R37, R38). -/
theorem test_ctrl_register :
    ((hw0 0#32 true false).storeCtrl 0xFFFFFFFF#32).ctrlRead = 0xDFFFFFFF#32 := by decide

/-! ## Reset and the presented word -/

theorem test_reset_parameters : State.reset.params.wellFormed = true := by decide

/-- In its first step after reset every command returns its result or makes its first PORT transaction. -/
theorem test_reset_runs_every_command :
    ∀ w ∈ [0x10000000, 0x20000000, 0x30000000, 0x40000000, 0x50000000, 0x60000000, 0x70000000, 0x80000000, 0x90000000,
        0xA0000000, 0xB0000000, 0xC0000000, 0xD0000000, 0xE0000000],
      (next? (step (State.reset.withFetchWord 32 w))).map (fun t => t.results == [] && t.portLog == []) = some false := by
  decide

/-! ## Endpoints (R61, R62) -/

/-- A front end; its texts and its reaction to a write to `hardware` are its own choice. -/
def frontEnd : FrontEndParams := ⟨"undefined\n", fun _ => "dump\n", .invalidInput⟩

theorem test_render :
    (Value.frequency (.hz 1000#32)).render frontEnd = some "1000hz\n" ∧
      (Value.count 99#16).render frontEnd = some "99\n" ∧
      (Value.frequency .undefined).render frontEnd = some "undefined\n" := by decide

/-- R56: above 65535 a write to `freqperiod` ends in the front end, "before any command word exists". -/
theorem test_endpoint_types :
    Endpoint.write .polarity .ch0 (.number 256) = .parseError (.number 256) ∧
      Endpoint.write .run .ch1 (.number 2) = .issue (.run .ch1 2#16) ∧
      Endpoint.write .freqperiod .ch0 (.number 65535) = .issue (.freqWr .ch0 0xFFFF#16) ∧
      Endpoint.write .freqperiod .ch0 (.number 65536) = .parseError (.number 65536) ∧
      Endpoint.write .entirecycles .ch0 (.text "x") = .parseError (.text "x") := by decide

/-- R136: an error is reported as an invalid-input condition. -/
theorem test_write_reply :
    (Endpoint.write .prescale .ch0 (.number 9)).reply frontEnd .ok = .accepted ∧
      (Endpoint.write .prescale .ch0 (.number 16)).reply frontEnd .invalidRange = .invalidInput ∧
      (Endpoint.write .prescale .ch0 (.number 256)).reply frontEnd .ok = .invalidInput := by decide

/-! ## Witnesses: concrete states and operands that meet the hypotheses of each statement -/

/-- A living idle machine with the word `w` first on CMD and another behind it. -/
def fetching (s : State) (w : Word) : State := { s with cmds := [w, 0xD0000000#32] }

theorem fetching_fetches (w : Word) : (fetching s0 w).Fetches w [0xD0000000#32] :=
  ⟨(by decide : s0.params.wellFormed = true), rfl, rfl⟩

/-- `step s` answers a next state. -/
def goesOn (s : State) : Bool := (next? (step s)).isSome

theorem goesOn_next {s : State} (h : goesOn s = true) : ∃ t, step s = .next t := by
  unfold goesOn at h
  cases hs : step s <;> simp [hs, next?] at h
  exact ⟨_, rfl⟩

/-- EncodeOfDecodeIsIdentity; the first and the last assigned opcode. -/
theorem witness_decodes :
    decode 0x1100FFFF#32 = .ok (.run .ch1 65535#16) ∧ decode 0xE0000000#32 = .ok .shutdown := by decide

/-- OutputFrequencyIsTheTruncatedQuotient and OutputFrequencyBounds: a reserved code, a divisor, a frequency. -/
theorem witness_divisors :
    divisorOf 5#4 = .reserved ∧ divisorOf 12#4 = .divisor 72000 ∧ outputFrequency 12#4 332#16 = .hz 1#32 := by decide

/-- SettersChangeOnlyTheirOwnField: both sides of 15. -/
theorem witness_setters : (15 : Nat) ≤ 15 ∧ (15 : Nat) < 16 := by decide

/-- PeriodImageIsTheTwoHalves: two images that are equal. -/
theorem witness_period_image : periodPack 50#16 99#16 = periodPack 50#16 99#16 := rfl

/-- BusyFlagsMoveOnlyByThePeripheral: a flag that is raised. -/
theorem witness_busy_raised :
    ∃ t, step { s0 with sched := [.peripheral (.raiseBusy .ch1)] } = .next t ∧
      t.hw.busy .ch1 ≠ ({ s0 with sched := [.peripheral (.raiseBusy .ch1)] } : State).hw.busy .ch1 :=
  ⟨_, rfl, by decide⟩

/-- BusyFlagsMoveOnlyByThePeripheral: a flag that is dropped. -/
theorem witness_busy_dropped :
    ∃ t, step { busy0 3 with sched := [.peripheral (.dropBusy .ch0)] } = .next t ∧
      t.hw.busy .ch0 ≠ ({ busy0 3 with sched := [.peripheral (.dropBusy .ch0)] } : State).hw.busy .ch0 :=
  ⟨_, rfl, by decide⟩

/-- PeripheralTurnsMoveOnlyThePeripheral: each of the four moves, the last in a list of turns. -/
theorem witness_peripheral_turns :
    s0.params.wellFormed = true ∧
      ∀ m ∈ [PeripheralMove.raiseBusy .ch0, .dropBusy .ch1, .drawPadding 0xFFFFFFFF#32, .drawPinmux 1#32],
        ({ s0 with sched := [.peripheral m] } : State).sched = .peripheral m :: [] := by decide

/-- PeripheralTurnsMoveOnlyThePeripheral, both clauses of a raise: a period write accepted with nothing pending, no period write
accepted, and a period write of the channel that is next. -/
theorem witness_raise :
    (s0.hw.written .ch0 = true ∧ ∀ r, s0.phase ≠ .periodWrite .ch0 r) ∧
      ({ s0.hw with written0 := false } : Peripheral).written .ch0 = false ∧
      ∃ r, (ready s0 .ch0 ⟨.total, 0#16⟩).phase = .periodWrite .ch0 r :=
  ⟨⟨rfl, (by intro r h; cases h)⟩, rfl, _, rfl⟩

/-- PeripheralReceivesExactlyTheLog. -/
theorem witness_port_log : s0.BlocksTurn [] ∧ ∃ t, step s0 = .next t := ⟨.inl ⟨rfl, rfl⟩, _, rfl⟩

/-- ConstructionResetsTheBlockOnly: after SHUTDOWN, and in the middle of a poll. -/
theorem witness_construct :
    (busy0 3).params.wellFormed = true ∧
      ({ busy0 3 with sched := [.construct], alive := false, phase := .poll .ch0 1 ⟨.total, 7#16⟩ } : State).sched =
        .construct :: [] := by decide

/-- IdleBlockWaits. -/
theorem witness_idle : s0.params.wellFormed = true ∧ s0.BlocksTurn [] ∧ s0.phase = .idle ∧ s0.cmds = [] :=
  ⟨by decide, .inl ⟨rfl, rfl⟩, rfl, rfl⟩

/-- StepIsRefusedInExactlyThreeCases, first clause: two registers at one address, an address that is no multiple of 4, a bound of
0. -/
theorem witness_refused_parameters :
    ({ s0 with params := ⟨0, 4, 4, 8, none⟩ } : State).params.wellFormed = false ∧
      ({ s0 with params := ⟨0, 4, 8, 14, none⟩ } : State).params.wellFormed = false ∧
      ({ s0 with params := ⟨0, 4, 8, 12, some 0⟩ } : State).params.wellFormed = false := by decide

/-- StepIsRefusedInExactlyThreeCases, second clause. -/
theorem witness_refused_shutdown :
    s0.params.wellFormed = true ∧ ({ s0 with alive := false, cmds := [0x70000000#32] } : State).alive = false ∧
      (∃ rest, ({ s0 with alive := false, cmds := [0x70000000#32] } : State).BlocksTurn rest) ∧
      ({ s0 with alive := false, cmds := [0x70000000#32] } : State).phase = .idle ∧
      ({ s0 with alive := false, cmds := [0x70000000#32] } : State).cmds ≠ [] :=
  ⟨by decide, rfl, ⟨[], .inl ⟨rfl, rfl⟩⟩, rfl, by decide⟩

/-- StepIsRefusedInExactlyThreeCases, fourth clause and the last; AllowedParameters with the least bound. -/
theorem witness_not_refused :
    ({ s0 with params := ps (some 1) } : State).params.wellFormed = true ∧ ¬ s0.alive = false ∧
      (¬∃ c r, s0.phase = .periodWrite c r ∧ s0.hw.busy c = true) ∧ s0.Sound :=
  ⟨by decide, by decide, (by rintro ⟨_, _, h, -⟩; cases h),
    ⟨rfl, rfl, ⟨rfl, rfl, rfl, rfl⟩, ⟨rfl, rfl, rfl, rfl⟩, trivial, fun _ => rfl⟩⟩

/-- StepIsRefusedInExactlyThreeCases, third clause. -/
theorem witness_refused_write :
    (busy0 3).params.wellFormed = true ∧ (ready (busy0 3) .ch0 ⟨.total, 0#16⟩).BlocksTurn [] ∧
      (ready (busy0 3) .ch0 ⟨.total, 0#16⟩).phase = .periodWrite .ch0 ⟨.total, 0#16⟩ ∧ (busy0 3).hw.busy .ch0 = true :=
  ⟨by decide, .inl ⟨rfl, rfl⟩, rfl, rfl⟩

/-- StepRunsTheDecodedCommand. -/
theorem witness_step_runs :
    (fetching s0 0x31000009#32).Fetches 0x31000009#32 [0xD0000000#32] ∧ (fetching s0 0x31000009#32).BlocksTurn [] ∧
      (fetching s0 0x31000009#32).alive = true ∧ decode 0x31000009#32 = .ok (.presc .ch1 9#16) :=
  ⟨fetching_fetches _, .inl ⟨rfl, rfl⟩, rfl, by decide⟩

/-- PresentedWordRunsNext, from reset. -/
theorem witness_presented :
    State.reset.params.wellFormed = true ∧ decode 0xD0000000#32 = .ok .snapshot := by decide

/-- IllegalWordOnlyReturnsIllegalCommand. -/
theorem witness_illegal :
    (fetching s0 0x12000001#32).Fetches 0x12000001#32 [0xD0000000#32] ∧ (fetching s0 0x12000001#32).BlocksTurn [] ∧
      (fetching s0 0x12000001#32).alive = true ∧ decode 0x12000001#32 = .error .z1NotZero :=
  ⟨fetching_fetches _, .inl ⟨rfl, rfl⟩, rfl, by decide⟩

/-- CommandsAreServedInOrderOneAtATime, IndexAdvancesWithEachResult, StepKeepsParameters: a step
of the block, of the peripheral and of the host that answers a next state. -/
theorem witness_steps :
    (∃ t, step (fetching s0 0x10000001#32) = .next t) ∧
      (∃ t, step { s0 with sched := [.peripheral (.raiseBusy .ch0)] } = .next t) ∧
      ∃ t, step { s0 with sched := [.construct] } = .next t :=
  ⟨goesOn_next (by decide), goesOn_next (by decide), goesOn_next (by decide)⟩

/-- RunSetsEnabledAndRewritesTheRegister, PolSetsPolarityAndRewritesTheRegister, PrescSetsCodeAndRewritesTheRegister: operands on
both sides of each bound. -/
theorem witness_operands :
    (1#16).toNat < 2 ∧ 2 ≤ (2#16).toNat ∧ (255#16).toNat ≤ 255 ∧ 255 < (256#16).toNat ∧ (15#16).toNat ≤ 15 ∧
      15 < (16#16).toNat := by decide

/-- EntireWritesThePeriodOrWaits, ActiveWritesThePeriodOrWaits: the flag clear without a bound, the flag set with the least. -/
theorem witness_period_commands :
    s0.params.wellFormed = true ∧ s0.hw.busy .ch0 = false ∧ (busy0 1).params.wellFormed = true ∧
      (busy0 1).hw.busy .ch0 = true ∧ (ready s0 .ch0 ⟨.total, 0#16⟩).BlocksTurn [] :=
  ⟨by decide, rfl, by decide, rfl, .inl ⟨rfl, rfl⟩⟩

/-- InvalidRangeCauses and OtherErrorCauses, the clauses about a command: a command that ends with the status, for each. -/
theorem witness_error_causes :
    (∃ t, exec (.freqWr .ch0 1000#16) s0 = .next t ∧ t.results = s0.results ++ [⟨.invalidRange, .unit, .operand 1000#16⟩]) ∧
      ∃ t, exec (.pol .ch0 256#16) s0 = .next t ∧ t.results = s0.results ++ [⟨.parseError, .unit, .operand 256#16⟩] :=
  ⟨⟨_, execFreqWr_rejects _ _ _, rfl⟩, ⟨_, execPol_rejects _ _ _ (by decide), rfl⟩⟩

/-- InvalidRangeCauses and OtherErrorCauses, the clauses about a step: one that ends with the status, for each; the timeout at the
least bound. -/
theorem witness_error_steps :
    (∃ t, step (fetching s0 0x60000000#32) = .next t ∧ t.results = [⟨.invalidRange, .unit, .operand 0#16⟩]) ∧
      (∃ t, step (fetching s0 0x30000100#32) = .next t ∧ t.results = [⟨.parseError, .unit, .operand 256#16⟩]) ∧
      (∃ t, step (fetching s0 0xF0000000#32) = .next t ∧ t.results = [⟨.illegalCommand, .unit, .word 0xF0000000#32⟩]) ∧
      ∃ t, step { busy0 1 with phase := .poll .ch0 1 ⟨.total, 7#16⟩ } = .next t ∧
        t.results = [⟨.hardwareTimeout, .unit, .channel .ch0⟩] :=
  ⟨⟨_, rfl, rfl⟩, ⟨_, rfl, rfl⟩, ⟨_, rfl, rfl⟩, ⟨_, rfl, rfl⟩⟩

/-- OtherErrorCauses, its last clause: a step that starts a period command, and one that goes on with it. -/
theorem witness_in_period_command :
    (∃ t, step (fetching (busy0 2) 0x40000005#32) = .next t ∧ t.phase.InPeriodCommand .ch0) ∧
      ∃ t, step { s0 with phase := .poll .ch0 1 ⟨.total, 7#16⟩ } = .next t ∧ t.phase.InPeriodCommand .ch0 :=
  ⟨⟨_, rfl, .inl ⟨_, _, rfl⟩⟩, ⟨_, rfl, .inr ⟨_, rfl⟩⟩⟩

/-- ReservedCodeIsAcceptedThenUndefined. -/
theorem witness_reserved :
    5#16 ∈ [5#16, 6#16, 7#16, 13#16, 14#16] ∧ 14#16 ∈ [5#16, 6#16, 7#16, 13#16, 14#16] := by decide

/-- SnapshotReadsTheFourRegisters: the block's turn in each phase of a SNAPSHOT, and no turn of anybody else. -/
theorem witness_snapshot :
    s0.params.wellFormed = true ∧ s0.sched = [] ∧
      ∀ p ∈ [SnapshotReads.ctrl 1#32, .period0 1#32 2#32, .period1 1#32 2#32 3#32],
        ({ s0 with phase := .snapshot p } : State).phase = .snapshot p ∧
          ({ s0 with phase := .snapshot p } : State).BlocksTurn [] :=
  ⟨by decide, rfl, fun _ _ => ⟨rfl, .inl ⟨rfl, rfl⟩⟩⟩

/-- ShutdownDisablesBothChannels, its last clause. -/
theorem witness_shutdown : ∀ c, (s0.chan c).pulseStart = false ∧ (s0.chan c).bypass = false := by
  intro c; cases c <;> decide

/-- AliveEndsOnlyByShutdown, both clauses. -/
theorem witness_alive :
    (∃ t, step (fetching s0 0xE0000000#32) = .next t ∧ (fetching s0 0xE0000000#32).alive = true ∧ t.alive = false) ∧
      ∃ t, step { s0 with alive := false, sched := [.construct] } = .next t ∧
        ({ s0 with alive := false, sched := [.construct] } : State).alive = false ∧ t.alive = true :=
  ⟨⟨_, rfl, rfl, rfl⟩, ⟨_, rfl, rfl, rfl⟩⟩

/-- PollingStep, the clause of the bound reached: `k` is the bound. -/
theorem witness_poll_timeout :
    (busy0 3).params.wellFormed = true ∧ (busy0 3).BlocksTurn [] ∧
      ({ busy0 3 with phase := .poll .ch0 3 ⟨.total, 7#16⟩ } : State).phase = .poll .ch0 3 ⟨.total, 7#16⟩ ∧
      (busy0 3).params.pollLimit = some 3 :=
  ⟨by decide, .inl ⟨rfl, rfl⟩, rfl, rfl⟩

/-- PollingStep, the clauses below the bound, one less than it: flag set and flag clear. -/
theorem witness_poll_goes_on :
    (busy0 3).params.pollLimit ≠ some 2 ∧ (busy0 3).hw.busy .ch0 = true ∧ (busy0 3).hw.busy .ch1 = false := by decide

/-- PollingStep, the clause of the period write. -/
theorem witness_poll_writes :
    s0.params.wellFormed = true ∧ (ready s0 .ch1 ⟨.active, 7#16⟩).BlocksTurn [] ∧
      (ready s0 .ch1 ⟨.active, 7#16⟩).phase = .periodWrite .ch1 ⟨.active, 7#16⟩ ∧
      (ready s0 .ch1 ⟨.active, 7#16⟩).hw.busy .ch1 = false :=
  ⟨by decide, .inl ⟨rfl, rfl⟩, rfl, rfl⟩

theorem ready_sound (r : Rollback) : (ready s0 .ch0 r).Sound :=
  ⟨rfl, rfl, ⟨rfl, rfl, rfl, rfl⟩, ⟨rfl, rfl, rfl, rfl⟩, ⟨rfl, [], _, rfl, by decide⟩, fun _ => rfl⟩

/-- PeriodWriteOnlyWhenReady, from a sound state. -/
theorem witness_period_write :
    ∃ t, step (ready s0 .ch0 ⟨.total, 7#16⟩) = .next t ∧
      t.portLog = (ready s0 .ch0 ⟨.total, 7#16⟩).portLog ++ [.write 0x108 0x00000000#32] ∧
      PortTx.write ((ready s0 .ch0 ⟨.total, 7#16⟩).params.periodAddr .ch0) 0x00000000#32 ∈
        [PortTx.write 0x108 0x00000000#32] ∧
      (ready s0 .ch0 ⟨.total, 7#16⟩).Sound :=
  ⟨_, rfl, by decide, by decide, ready_sound _⟩

/-- StuckBusyFlagHangsForEver. -/
theorem witness_stuck :
    (fetching { s0 with hw := hw0 0#32 true false } 0x50000001#32).Fetches 0x50000001#32 [0xD0000000#32] ∧
      (fetching { s0 with hw := hw0 0#32 true false } 0x50000001#32).sched = [] ∧
      (fetching { s0 with hw := hw0 0#32 true false } 0x50000001#32).alive = true ∧
      decode 0x50000001#32 = .ok (.active .ch0 1#16) ∧
      (fetching { s0 with hw := hw0 0#32 true false } 0x50000001#32).params.pollLimit = none ∧
      (fetching { s0 with hw := hw0 0#32 true false } 0x50000001#32).hw.busy .ch0 = true :=
  ⟨⟨by decide, rfl, rfl⟩, rfl, rfl, by decide, rfl, rfl⟩

/-- BoundedWaitTimesOutWithoutEffect, with the least bound. -/
theorem witness_bounded :
    (fetching (busy0 1) 0x40000005#32).Fetches 0x40000005#32 [0xD0000000#32] ∧
      (fetching (busy0 1) 0x40000005#32).sched = [] ∧ (fetching (busy0 1) 0x40000005#32).alive = true ∧
      decode 0x40000005#32 = .ok (.entire .ch0 5#16) ∧ (fetching (busy0 1) 0x40000005#32).params.pollLimit = some 1 ∧
      (fetching (busy0 1) 0x40000005#32).hw.busy .ch0 = true :=
  ⟨⟨by decide, rfl, rfl⟩, rfl, rfl, by decide, rfl, rfl⟩

/-- The state of the next witness: one busy poll, then the flag drops, with a bound of two polls; the peripheral moves at each of
the points left to it, and a turn is left at the end. -/
def clearing (w : Word) : State :=
  { fetching (busy0 2) w with
    sched := [.peripheral (.raiseBusy .ch1), .block] ++ .peripheral (.dropBusy .ch0) ::
      [.peripheral (.drawPadding 0xFFFFFFFF#32)] ++ .block :: [.peripheral (.raiseBusy .ch0)] ++ .block :: [.construct] }

/-- WaitEndsWhenTheFlagClears, with `j` 0 and the least bound that lets it end; for ACTIVE and for ENTIRE. -/
theorem witness_clears :
    ((clearing 0x50000001#32).Fetches 0x50000001#32 [0xD0000000#32] ∧ decode 0x50000001#32 = .ok (.active .ch0 1#16)) ∧
      ((clearing 0x40000001#32).Fetches 0x40000001#32 [0xD0000000#32] ∧ decode 0x40000001#32 = .ok (.entire .ch0 1#16)) ∧
      ∀ w, (clearing w).alive = true ∧
        (clearing w).sched = [.peripheral (.raiseBusy .ch1), .block] ++ .peripheral (.dropBusy .ch0) ::
          [.peripheral (.drawPadding 0xFFFFFFFF#32)] ++ .block :: [.peripheral (.raiseBusy .ch0)] ++ .block ::
          [.construct] ∧
        [Turn.peripheral (.raiseBusy .ch1), .block].count .block = 0 + 1 ∧
        (∀ x ∈ [Turn.peripheral (.raiseBusy .ch1), .block], x = .block ∨ ∃ m, x = .peripheral m ∧ m ≠ .dropBusy .ch0) ∧
        (∀ x ∈ [Turn.peripheral (.drawPadding 0xFFFFFFFF#32)], ∃ m, x = .peripheral m ∧ m ≠ .raiseBusy .ch0) ∧
        (∀ x ∈ [Turn.peripheral (.raiseBusy .ch0)], ∃ m, x = .peripheral m) ∧
        (∀ n, (clearing w).params.pollLimit = some n → 0 + 1 < n) ∧ (clearing w).hw.busy .ch0 = true := by
  refine ⟨⟨⟨by decide, rfl, rfl⟩, by decide⟩, ⟨⟨by decide, rfl, rfl⟩, by decide⟩,
    fun w => ⟨rfl, rfl, by decide, ?_, ?_, ?_, ?_, rfl⟩⟩
  · simp
  · simp
  · simp
  · intro n h
    injection h with h
    omega

/-- FailedCommandHasNoEffect: a rejected operand, and a timeout. -/
theorem witness_failed :
    (∃ t, step (fetching s0 0x10000002#32) = .next t ∧
        t.results = (fetching s0 0x10000002#32).results ++ [⟨.invalidRange, .unit, .operand 2#16⟩]) ∧
      ∃ t, step { busy0 1 with phase := .poll .ch0 1 ⟨.total, 7#16⟩ } = .next t ∧
        t.results = (busy0 1).results ++ [⟨.hardwareTimeout, .unit, .channel .ch0⟩] :=
  ⟨⟨_, rfl, rfl⟩, ⟨_, rfl, rfl⟩⟩

/-- StepKeepsSoundStates: a sound state in the middle of a poll, at the bound. -/
theorem witness_sound :
    ({ busy0 3 with phase := .poll .ch0 3 ⟨.total, 7#16⟩ } : State).Sound ∧
      goesOn { busy0 3 with phase := .poll .ch0 3 ⟨.total, 7#16⟩ } = true := by
  refine ⟨⟨rfl, rfl, ⟨rfl, rfl, rfl, rfl⟩, ⟨rfl, rfl, rfl, rfl⟩, ⟨by decide, ?_⟩, fun _ => rfl⟩, by decide⟩
  intro n h
  injection h with h
  omega

/-- StepKeepsSoundStates: a sound state before a period write, and one in the middle of a SNAPSHOT. -/
theorem witness_sound_in_progress :
    ((ready s0 .ch0 ⟨.total, 7#16⟩).Sound ∧ goesOn (ready s0 .ch0 ⟨.total, 7#16⟩) = true) ∧
      ({ s0 with phase := .snapshot (.ctrl 1#32), portLog := [.read 0x104 1#32] } : State).Sound ∧
      goesOn { s0 with phase := .snapshot (.ctrl 1#32), portLog := [.read 0x104 1#32] } = true :=
  ⟨⟨ready_sound _, by decide⟩,
    ⟨rfl, rfl, ⟨rfl, rfl, rfl, rfl⟩, ⟨rfl, rfl, rfl, rfl⟩, ⟨[], rfl⟩, fun _ => rfl⟩, by decide⟩

/-- StepKeepsControlCoherence. -/
theorem witness_control_coherence :
    (fetching s0 0x10000001#32).ControlCoherent ∧ ¬ (fetching s0 0x10000001#32).ConstructsNext ∧
      goesOn (fetching s0 0x10000001#32) = true :=
  ⟨by unfold State.ControlCoherent; decide, (by rintro ⟨_, h⟩; cases h), by decide⟩

/-- StepKeepsPeriodCoherence, in the middle of a poll. -/
theorem witness_period_coherence :
    ({ busy0 3 with phase := .poll .ch1 1 ⟨.total, 0#16⟩, ch1 := { (busy0 3).ch1 with totalCycles := 5#16 } } :
      State).PeriodCoherent .ch1 ∧
    ¬ ({ busy0 3 with phase := .poll .ch1 1 ⟨.total, 0#16⟩ } : State).ConstructsNext ∧
    goesOn { busy0 3 with phase := .poll .ch1 1 ⟨.total, 0#16⟩, ch1 := { (busy0 3).ch1 with totalCycles := 5#16 } } =
      true :=
  ⟨by unfold State.PeriodCoherent; decide, (by rintro ⟨_, h⟩; cases h), by decide⟩

/-- SuccessfulWriteMakesCoherent, both cases, from registers that agree with nothing. -/
theorem witness_makes_coherent :
    (∃ t, step (fetching { s0 with hw := hw0 0xFFFFFFFF#32 false false } 0x10000001#32) = .next t ∧
        t.results = s0.results ++ [⟨.ok, .unit, .nothing⟩]) ∧
      ∃ t, step (ready s0 .ch1 ⟨.active, 7#16⟩) = .next t ∧ t.results = s0.results ++ [⟨.ok, .unit, .nothing⟩] :=
  ⟨⟨_, rfl, rfl⟩, ⟨_, rfl, rfl⟩⟩

/-- RegisterContentsNeverDriveTheBlock: two machines in the middle of a SNAPSHOT, whose registers differ in every bit, and the words
read so far too. -/
theorem witness_alike :
    ({ s0 with phase := .snapshot (.ctrl 1#32), portLog := [.read 0x104 1#32] } : State).Alike
      { s0 with
        phase := .snapshot (.ctrl 0xFFFFFFFE#32)
        portLog := [.read 0x104 0xFFFFFFFE#32]
        hw := ⟨~~~0x00310062#32, ~~~0x00630032#32, ~~~0#32, ~~~0xABCD#32, false, false, true, true⟩ } ∧
      goesOn { s0 with phase := .snapshot (.ctrl 1#32), portLog := [.read 0x104 1#32] } = true :=
  ⟨⟨rfl, fun c => by cases c <;> rfl, rfl, rfl, fun c => by cases c <;> rfl, fun c => by cases c <;> rfl, rfl, rfl, rfl, rfl,
    rfl⟩, by decide⟩

/-- OnlyTheOwnBusyFlagHoldsAPeriodCommand: the other channel's flag differs; the step that accepts the command, a further poll,
and the write. -/
theorem witness_own_flag :
    (hw0 0#32 false true).busy .ch0 = s0.hw.busy .ch0 ∧ (hw0 0#32 false true).busy .ch1 ≠ s0.hw.busy .ch1 ∧
      (∃ t, step (fetching s0 0x40000063#32) = .next t ∧ (fetching s0 0x40000063#32).CarriesOut t 0x40000063#32 ∧
        decode 0x40000063#32 = .ok (.entire .ch0 99#16)) ∧
      (∃ t, step { s0 with phase := .poll .ch0 1 ⟨.total, 7#16⟩ } = .next t) ∧
      ∃ t, step (ready s0 .ch0 ⟨.total, 7#16⟩) = .next t :=
  ⟨by decide, by decide, ⟨_, rfl, .inl ⟨rfl, rfl⟩, by decide⟩, ⟨_, rfl⟩, ⟨_, rfl⟩⟩

/-- NoUpdateIsLostInEitherOrder. -/
theorem witness_updates : (255#16).toNat ≤ 255 ∧ (15#16).toNat ≤ 15 := by decide

/-- EndpointsMapToCommands: both sides of each bound, and an endpoint that can be written. -/
theorem witness_endpoints :
    (255 : Nat) < 256 ∧ (256 : Nat) ≤ 256 ∧ (65535 : Nat) < 65536 ∧ (65536 : Nat) ≤ 65536 ∧
      Endpoint.freqperiod ≠ .hardware := by
  decide

end Sys2Proof.Tests
end

section
/-! The prescaler table (40_prescaler_frequency.md, R70). -/

namespace Sys2Proof.Machine

/-- Settles O6: the table is a closed finite fact, so `divisorOf` is evaluated at each of the sixteen 4-bit codes. -/
theorem divisorTableIsAsListed : Obligations.DivisorTableIsAsListed := by
  unfold Obligations.DivisorTableIsAsListed
  decide

end Sys2Proof.Machine
end

section
/-! The setters of a channel's record (41_channel_state.md, R80 to R85). -/

namespace Sys2Proof.Machine

/-- A prescale code in range is stored, a reserved one like any other (R82). -/
theorem ChannelState.setPrescale_of_le (s : ChannelState) {n : Nat} (h : n ≤ 15) :
    s.setPrescale n = .ok { s with prescaleCode := BitVec.ofNat 4 n } :=
  if_neg (Nat.not_lt.mpr h)

/-- A prescale code above 15 is refused, so there is no new record (R82). -/
theorem ChannelState.setPrescale_of_lt (s : ChannelState) {n : Nat} (h : 15 < n) :
    s.setPrescale n = .error .invalidRange :=
  if_pos h

/-- Settles O9: `setEnabled` resets its fields without looking at `value`, so the equation is its own definition with the default
code read as 2. -/
theorem setEnabledResetsFourFields : Obligations.SetEnabledResetsFourFields := by
  unfold Obligations.SetEnabledResetsFourFields
  intro s value
  rfl

/-- Settles O10: only `setPrescale` has a check, and its two sides are `setPrescale_of_le` and `setPrescale_of_lt`; the other three
setters are single record updates. -/
theorem settersChangeOnlyTheirOwnField : Obligations.SettersChangeOnlyTheirOwnField := by
  unfold Obligations.SettersChangeOnlyTheirOwnField
  intro s b n v
  exact ⟨rfl, s.setPrescale_of_le, s.setPrescale_of_lt, rfl, rfl⟩

end Sys2Proof.Machine
end

section
/-! The period register image (42_control_codec.md, R94, R95). -/

namespace Sys2Proof.Machine

/-- The halves do not overlap, so the image is their concatenation, total cycles above active cycles (R94). -/
theorem periodPack_eq_append (a t : Half) : periodPack a t = t ++ a := by
  rw [BitVec.append_def, BitVec.shiftLeftZeroExtend_eq, BitVec.setWidth'_eq, BitVec.or_comm, periodPack]

/-- Reading the low half gives the active cycles back, the high half the total cycles (R94, R95). -/
@[simp] theorem periodUnpack_periodPack (a t : Half) : periodUnpack (periodPack a t) = ⟨a, t⟩ := by
  rw [periodPack_eq_append]
  exact congrArg₂ PeriodFields.mk BitVec.extractLsb'_append_eq_right BitVec.extractLsb'_append_eq_left

/-- The two halves are all 32 bits, so packing them again gives the value back (R95). -/
@[simp] theorem periodPack_periodUnpack (raw : Word) :
    periodPack (periodUnpack raw).activeCycles (periodUnpack raw).totalCycles = raw := by
  rw [periodPack_eq_append]
  exact BitVec.extractLsb'_append_extractLsb' (w := 16) (len := 16)

/-- The counts are determined by their image: `periodUnpack` reads them back from it. -/
theorem periodPack_inj {a t a' t' : Half} (h : periodPack a t = periodPack a' t') : a = a' ∧ t = t' := by
  have hfields := congrArg periodUnpack h
  simpa using hfields

/-- Settles O14: `periodUnpack` reads exactly the two halves and is the inverse of `periodPack` on both sides, which gives the
halves, injectivity, and for every value the counts it is the image of. -/
theorem periodImageIsTheTwoHalves : Obligations.PeriodImageIsTheTwoHalves := by
  unfold Obligations.PeriodImageIsTheTwoHalves
  refine ⟨fun a t => ?_, fun _ _ _ _ => periodPack_inj, fun raw => ⟨_, _, periodPack_periodUnpack raw⟩⟩
  have hfields := periodUnpack_periodPack a t
  exact ⟨congrArg PeriodFields.activeCycles hfields, congrArg PeriodFields.totalCycles hfields⟩

end Sys2Proof.Machine
end

section
/-! The commands of the controller that end in one step (44_controller.md, R111, R116 to R121). -/

namespace Sys2Proof.Machine

/-- `finish` is all there is to a command that only returns: no record, no register and no entry of the PORT log changes (R136). -/
theorem State.finish_onlyReturns (s : State) (r : Completion) : s.OnlyReturns (s.finish r) r where
  phase := rfl
  results := rfl
  cmds := rfl
  sched := rfl
  params := rfl
  ch0 := rfl
  ch1 := rfl
  alive := rfl
  hw := rfl
  portLog := rfl

/-- A meaning that is `return (OK, v)` alone ends with that result and has no other effect (R63). -/
theorem complete_onlyReturns (s : State) (v : Value) :
    ∃ t, complete v s = .next t ∧ s.OnlyReturns t ⟨.ok, v, .nothing⟩ :=
  ⟨_, complete_eq v s, s.finish_onlyReturns _⟩

theorem otherChan_ne (c : Chan) : otherChan c ≠ c := by cases c <;> decide

@[simp] theorem State.setChan_chan_otherChan (s : State) (c : Chan) (x : ChannelState) :
    (s.setChan c x).chan (otherChan c) = s.chan (otherChan c) :=
  s.setChan_chan_ne c _ x (otherChan_ne c)

/-- Whichever channel a control-register command changes, it completes, leaves the other channel alone, and writes the image of
both new records once (R110, R125). -/
theorem State.setChan_ctrlWrite_finish_effect {s t : State} {c : Chan} {x : ChannelState} {r : Completion}
    (ht : t = (s.setChan c x).ctrlWrite.finish r) :
    s.Completes t r ∧ t.alive = s.alive ∧ t.chan c = x ∧ t.chan (otherChan c) = s.chan (otherChan c) ∧
      t.hw = { s.hw with ctrl := pack t.ch0 t.ch1 } ∧
      t.portLog = s.portLog ++ [.write s.params.ctrlAddr (pack t.ch0 t.ch1)] := by
  subst ht
  have hcompletes : s.Completes ((s.setChan c x).ctrlWrite.finish r) r := by constructor <;> simp
  refine ⟨hcompletes, ?alive, ?own, ?other, ?hw, ?portLog⟩
  case hw => rw [finish_hw, ctrlWrite_hw, Peripheral.storeCtrl_pack, setChan_hw]; rfl
  all_goals simp

/-- Settles O30: `execRun_accepts` and `execRun_rejects` are the two sides of the operand check, and each side's next state has
the frame of its shared ending. -/
theorem runSetsEnabledAndRewritesTheRegister : Obligations.RunSetsEnabledAndRewritesTheRegister := by
  unfold Obligations.RunSetsEnabledAndRewritesTheRegister
  intro s c imm
  refine ⟨fun haccept => ?_, fun hreject => ?_⟩
  · exact ⟨_, execRun_accepts s c imm haccept, State.setChan_ctrlWrite_finish_effect rfl⟩
  · exact ⟨_, execRun_rejects s c imm hreject, s.finish_onlyReturns _⟩

/-- Settles O35: FREQ_WR never looks at its operand, so `execFreqWr_rejects` needs no case. -/
theorem freqWrAlwaysRejects : Obligations.FreqWrAlwaysRejects := by
  unfold Obligations.FreqWrAlwaysRejects
  intro s c imm
  exact ⟨_, execFreqWr_rejects s c imm, s.finish_onlyReturns _⟩

/-- Settles O38: each of the five meanings is `complete` at the field read from the record of `c`, with no other operation. -/
theorem readCommandsReturnTheMirror : Obligations.ReadCommandsReturnTheMirror := by
  unfold Obligations.ReadCommandsReturnTheMirror
  intro s c
  exact ⟨complete_onlyReturns s (.bit (b2n (s.chan c).enabled)),
    complete_onlyReturns s (.bit (b2n (s.chan c).polarity)),
    complete_onlyReturns s (.code (s.chan c).prescaleCode),
    complete_onlyReturns s (.count (s.chan c).totalCycles),
    complete_onlyReturns s (.count (s.chan c).activeCycles)⟩

end Sys2Proof.Machine
end

section
/-! The causes of InvalidRange (60_exceptions.md, R132). -/

namespace Sys2Proof.Machine

/-- The three causes of InvalidRange (R132). -/
def InvalidRangeCause (i : Instr) : Prop :=
  (∃ c imm, i = .run c imm ∧ 2 ≤ imm.toNat) ∨ (∃ c imm, i = .presc c imm ∧ 16 ≤ imm.toNat ∧ imm.toNat ≤ 255) ∨
    ∃ c imm, i = .freqWr c imm

/-- A command with one of the causes returns InvalidRange with value `unit`, and does no more than that. -/
theorem exec_of_invalidRangeCause {i : Instr} (hi : InvalidRangeCause i) (s : State) :
    ∃ info, exec i s = .next (s.finish ⟨.invalidRange, .unit, info⟩) := by
  rcases hi with ⟨c, imm, rfl, hlow⟩ | ⟨c, imm, rfl, hlow, hhigh⟩ | ⟨c, imm, rfl⟩
  · exact ⟨_, execRun_rejects s c imm hlow⟩
  · exact ⟨_, execPresc_outOfRange s c imm hlow hhigh⟩
  · exact ⟨_, execFreqWr_rejects s c imm⟩

/-- The result that `finish` adds is the one it was given, whatever the command did to the state before it ended. -/
theorem State.finish_result_eq {s u : State} {a r : Completion} (hr : (u.finish a).results = s.results ++ [r])
    (hu : u.results = s.results) : r = a := by
  simpa [hu] using hr.symm

/-- A turn of the protocol's loop returns nothing but a HardwareTimeout (R105). -/
theorem pollOnce_result {c : Chan} {k : Nat} {rb : Rollback} {s t : State} {r : Completion}
    (h : pollOnce c k rb s = .next t) (hr : t.results = s.results ++ [r]) :
    s.params.pollLimit = some k ∧ r = ⟨.hardwareTimeout, .unit, .channel c⟩ := by
  rcases pollOnce_cases h with ⟨hlimit, rfl⟩ | ⟨-, -, rfl⟩ | ⟨-, -, rfl⟩
  · exact ⟨hlimit, State.finish_result_eq hr (by simp)⟩
  · simp at hr
  · simp at hr

/-- ENTIRE and ACTIVE start with a poll, so their first step returns nothing but a HardwareTimeout (R114, R115). -/
theorem periodCommand_result {f : CycleField} {c : Chan} {imm : Half} {s t : State} {r : Completion}
    (h : periodCommand f c imm s = .next t) (hr : t.results = s.results ++ [r]) :
    r = ⟨.hardwareTimeout, .unit, .channel c⟩ :=
  (pollOnce_result h (by simpa using hr)).2

/-- A command that returns InvalidRange has one of the three causes: every other path returns another status, or nothing yet. -/
theorem invalidRangeCause_of_exec {i : Instr} {s t : State} {r : Completion} (h : exec i s = .next t)
    (hr : t.results = s.results ++ [r]) (hstatus : r.status = .invalidRange) : InvalidRangeCause i := by
  have hends : ∀ {u : State} {a : Completion}, exec i s = .next (u.finish a) → u.results = s.results →
      a.status = .invalidRange := by
    intro u a he hu
    obtain rfl := next_inj (h.symm.trans he)
    rwa [← State.finish_result_eq hr hu]
  cases i with
  | run c imm =>
    by_cases hlow : 2 ≤ imm.toNat
    · exact .inl ⟨c, imm, rfl, hlow⟩
    · cases hends (execRun_accepts s c imm (by omega)) (by simp)
  | pol c imm =>
    by_cases hbyte : imm.toNat ≤ 255
    · cases hends (execPol_accepts s c imm hbyte) (by simp)
    · cases hends (execPol_rejects s c imm (by omega)) rfl
  | presc c imm =>
    by_cases hcode : imm.toNat ≤ 15
    · cases hends (execPresc_accepts s c imm hcode) (by simp)
    · by_cases hbyte : imm.toNat ≤ 255
      · exact .inr (.inl ⟨c, imm, rfl, by omega, hbyte⟩)
      · cases hends (execPresc_notAByte s c imm (by omega)) rfl
  | entire c imm =>
    rw [periodCommand_result h hr] at hstatus
    cases hstatus
  | active c imm =>
    rw [periodCommand_result h hr] at hstatus
    cases hstatus
  | freqWr c imm => exact .inr (.inr ⟨c, imm, rfl⟩)
  | rdRun c => cases hends (complete_eq _ s) rfl
  | rdPol c => cases hends (complete_eq _ s) rfl
  | rdPresc c => cases hends (complete_eq _ s) rfl
  | rdEntire c => cases hends (complete_eq _ s) rfl
  | rdActive c => cases hends (complete_eq _ s) rfl
  | rdFreq c => cases hends (complete_eq _ s) rfl
  | snapshot =>
    obtain rfl := next_inj (h.symm.trans (execSnapshot_reads s))
    simp at hr
  | shutdown => cases hends (complete_eq _ _) (by simp)

/-- What a command with one of the causes returns, stated of the result and the next state (R132, R136). -/
theorem invalidRangeCause_onlyReturns {i : Instr} {s t : State} {r : Completion} (hi : InvalidRangeCause i)
    (h : exec i s = .next t) (hr : t.results = s.results ++ [r]) :
    r.status = .invalidRange ∧ r.value = .unit ∧ s.OnlyReturns t r := by
  obtain ⟨info, he⟩ := exec_of_invalidRangeCause hi s
  obtain rfl := next_inj (h.symm.trans he)
  rw [State.finish_result_eq hr rfl]
  exact ⟨rfl, rfl, s.finish_onlyReturns _⟩

/-- Where a result of a turn of the block comes from (R105, R110): an accepted word, the bound of a poll, or the last transaction
of a command in progress. -/
theorem blockStep_result {s t : State} {r : Completion} (h : blockStep s = .next t) (hr : t.results = s.results ++ [r]) :
    (∃ w, s.CarriesOut t w ∧
      ((∃ i, decode w = .ok i) ∨ (∃ e, decode w = .error e) ∧ r.status = .illegalCommand)) ∨
    (∃ c k rb, s.phase = .poll c k rb ∧ s.params.pollLimit = some k ∧ r.status = .hardwareTimeout) ∨
    r.status = .ok := by
  rcases blockStep_effects h with
    ⟨-, -, rfl⟩ | ⟨w, u, hu, -, hw⟩ | ⟨c, k, rb, hphase, hp⟩ | ⟨c, rb, -, -, rfl⟩ | ⟨p, -, ⟨q, -, rfl⟩ | ⟨v, rfl⟩⟩
  · simp at hr
  · have hresults : u.results = s.results := by
      rcases hu with ⟨-, -, hu⟩ | ⟨-, rfl⟩
      · rw [hu, State.accept_results]
      · rfl
    have hcmds : t.cmds = u.cmds := by
      rcases hw with ⟨e, -, rfl⟩ | ⟨i, -, he⟩
      · rfl
      · exact (exec_keeps he).2.1
    refine .inl ⟨w, ?_, ?_⟩
    · exact hu.imp (fun ⟨hidle, hlist, _⟩ => ⟨hidle, hcmds ▸ hlist⟩) And.left
    · rcases hw with ⟨e, he, rfl⟩ | ⟨i, hi, -⟩
      · refine .inr ⟨⟨e, he⟩, ?_⟩
        rw [State.finish_result_eq hr hresults]
      · exact .inl ⟨i, hi⟩
  · obtain ⟨hlimit, rfl⟩ := pollOnce_result hp hr
    exact .inr (.inl ⟨c, k, rb, hphase, hlimit, rfl⟩)
  · obtain rfl := State.finish_result_eq hr (by simp)
    exact .inr (.inr rfl)
  · simp at hr
  · obtain rfl := State.finish_result_eq hr (by simp)
    exact .inr (.inr rfl)

/-- Only a turn of the block returns a result. -/
theorem step_result {s t : State} {r : Completion} (h : step s = .next t) (hr : t.results = s.results ++ [r]) :
    ∃ rest, s.BlocksTurn rest ∧ blockStep { s with sched := rest } = .next t := by
  obtain ⟨-, ⟨m, rest, -, rfl⟩ | ⟨rest, -, rfl⟩ | hblock⟩ := step_cases h
  · simp at hr
  · simp at hr
  · exact hblock

/-- Settles O36: on a command, the causes are necessary by `invalidRangeCause_of_exec`, and sufficient and without other effect by
`invalidRangeCause_onlyReturns`; on a step, every origin of a result but a decoded command has another status
(`blockStep_result`). -/
theorem invalidRangeCauses : Obligations.InvalidRangeCauses := by
  unfold Obligations.InvalidRangeCauses
  refine ⟨fun i s t r h hr => ?command, fun s t r h hr hstatus => ?step⟩
  case command =>
    have hcause : r.status = .invalidRange → InvalidRangeCause i := invalidRangeCause_of_exec h hr
    have honly (hi : InvalidRangeCause i) := invalidRangeCause_onlyReturns hi h hr
    exact ⟨⟨hcause, fun hi => (honly hi).1⟩, fun hstatus => (honly (hcause hstatus)).2⟩
  case step =>
    obtain ⟨rest, -, hblock⟩ := step_result h hr
    rcases blockStep_result hblock hr with
      ⟨w, hw, ⟨i, hi⟩ | ⟨-, hillegal⟩⟩ | ⟨c, k, rb, -, -, htimeout⟩ | hok
    · exact ⟨w, i, hw, hi⟩
    · cases hstatus.symm.trans hillegal
    · cases hstatus.symm.trans htimeout
    · cases hstatus.symm.trans hok

end Sys2Proof.Machine
end

section
/-! Decoder and encoder (30_encoding.md, R54 to R60). -/

namespace Sys2Proof

/-! ## The decoder against the fields of a command -/

/-- A command that ignores `imm` is decoded exactly when the field is 0 (R57). -/
theorem CommandFields.withoutImm_ok_iff (f : CommandFields) (i j : Instr) :
    f.withoutImm i = .ok j ↔ f.imm = 0#16 ∧ j = i := by
  unfold withoutImm
  split <;> simp [*, eq_comm]

/-- A command that ignores `ch` and `imm` is decoded exactly when both fields are 0 (R57). -/
theorem CommandFields.withoutOperands_ok_iff (f : CommandFields) (i j : Instr) :
    f.withoutOperands i = .ok j ↔ f.ch = 0#1 ∧ f.imm = 0#16 ∧ j = i := by
  unfold withoutOperands
  split <;> simp [withoutImm_ok_iff, *]

/-- The decoder's three checks, in their order (R57). -/
theorem CommandFields.decode_ok_iff (f : CommandFields) (i : Instr) :
    f.decode = .ok i ↔ f.z1 = 0#3 ∧ f.z2 = 0#8 ∧ f.select = .ok i := by
  unfold decode
  split
  · simp [*]
  · split <;> simp_all

/-- The fields of a command select it: the opcode map read from right to left (R55, R60). -/
theorem Instr.select_fields (i : Instr) : i.fields.select = .ok i := by
  cases i <;> simp [fields, CommandFields.format, CommandFields.select, CommandFields.withoutImm,
    CommandFields.withoutOperands]

/-- Fields with `z1` and `z2` zero that select a command are the fields of that command: an operation code has one row of R55,
and a row without an operand demands that the operand's field is 0. -/
theorem CommandFields.eq_fields_of_select {f : CommandFields} {i : Instr} (hz1 : f.z1 = 0#3) (hz2 : f.z2 = 0#8)
    (h : f.select = .ok i) : i.fields = f := by
  obtain ⟨op, z1, ch, z2, imm⟩ := f
  subst hz1 hz2
  have hok (a : Instr) : (.ok a : Except IllegalReason Instr) = .ok i ↔ i = a := by simp [eq_comm]
  rcases op_cases op with
    rfl | rfl | rfl | rfl | rfl | rfl | rfl | rfl | rfl | rfl | rfl | rfl | rfl | rfl | rfl | rfl
  case inl => cases h
  case inr.inr.inr.inr.inr.inr.inr.inr.inr.inr.inr.inr.inr.inr.inr => cases h
  all_goals
    simp only [select, withoutImm_ok_iff, withoutOperands_ok_iff, hok] at h
    simp [h, Instr.fields, format]

/-- The decoder on fields gives a command exactly when they are that command's fields (R57, R60). -/
theorem CommandFields.decode_eq_ok_iff (f : CommandFields) (i : Instr) : f.decode = .ok i ↔ i.fields = f := by
  rw [decode_ok_iff]
  constructor
  · rintro ⟨hz1, hz2, hselect⟩
    exact eq_fields_of_select hz1 hz2 hselect
  · rintro rfl
    exact ⟨by cases i <;> rfl, by cases i <;> rfl, i.select_fields⟩

/-- A word decodes to a command exactly when its fields are that command's. -/
theorem decode_eq_ok_iff_fields (w : Word) (i : Instr) : decode w = .ok i ↔ i.fields = .ofWord w :=
  CommandFields.decode_eq_ok_iff _ _

/-- A word decodes to a command exactly when it is that command's encoding. -/
theorem decode_eq_ok_iff (w : Word) (i : Instr) : decode w = .ok i ↔ encode i = w := by
  rw [decode_eq_ok_iff_fields, encode, ← CommandFields.toWord_inj, CommandFields.toWord_ofWord]

/-- Settles O1: `decode_eq_ok_iff` at the word `encode i`. -/
theorem decodeOfEncodeIsIdentity : Obligations.DecodeOfEncodeIsIdentity := by
  unfold Obligations.DecodeOfEncodeIsIdentity
  intro i
  exact (decode_eq_ok_iff (encode i) i).mpr rfl

/-- Settles O2: the other direction of `decode_eq_ok_iff`. -/
theorem encodeOfDecodeIsIdentity : Obligations.EncodeOfDecodeIsIdentity := by
  unfold Obligations.EncodeOfDecodeIsIdentity
  intro w i h
  exact (decode_eq_ok_iff w i).mp h

/-! ## The illegal words -/

/-- The fields of every command pass the five checks, row by row (R57). -/
theorem Instr.fields_wellFormed (i : Instr) : i.fields.wellFormed = true := by
  cases i with
  | run c imm => exact Laws.EncodedFieldsLegal.run c imm
  | pol c imm => exact Laws.EncodedFieldsLegal.pol c imm
  | presc c imm => exact Laws.EncodedFieldsLegal.presc c imm
  | entire c imm => exact Laws.EncodedFieldsLegal.entire c imm
  | active c imm => exact Laws.EncodedFieldsLegal.active c imm
  | freqWr c imm => exact Laws.EncodedFieldsLegal.freqWr c imm
  | rdRun c => exact Laws.EncodedFieldsLegal.rdRun c
  | rdPol c => exact Laws.EncodedFieldsLegal.rdPol c
  | rdPresc c => exact Laws.EncodedFieldsLegal.rdPresc c
  | rdEntire c => exact Laws.EncodedFieldsLegal.rdEntire c
  | rdActive c => exact Laws.EncodedFieldsLegal.rdActive c
  | rdFreq c => exact Laws.EncodedFieldsLegal.rdFreq c
  | snapshot => exact Laws.EncodedFieldsLegal.snapshot
  | shutdown => exact Laws.EncodedFieldsLegal.shutdown

/-- Fields that pass the five checks decode: the opcode map has a row for each operation code but 0x0 and 0xF (R55, R57). -/
theorem CommandFields.decode_of_wellFormed {f : CommandFields} (h : f.wellFormed = true) : ∃ i, f.decode = .ok i := by
  obtain ⟨op, z1, ch, z2, imm⟩ := f
  rcases op_cases op with
    rfl | rfl | rfl | rfl | rfl | rfl | rfl | rfl | rfl | rfl | rfl | rfl | rfl | rfl | rfl | rfl
  all_goals simp [wellFormed, opAssigned, usesImm, usesChannel] at h
  all_goals simp [decode, select, withoutImm, withoutOperands, h]

/-- The fields that are those of a command are the well-formed ones: the opcode map agrees with the prose of R57. -/
theorem CommandFields.exists_fields_eq_iff (f : CommandFields) : (∃ i : Instr, i.fields = f) ↔ f.wellFormed = true := by
  constructor
  · rintro ⟨i, rfl⟩
    exact i.fields_wellFormed
  · intro h
    obtain ⟨i, hi⟩ := decode_of_wellFormed h
    exact ⟨i, (f.decode_eq_ok_iff i).mp hi⟩

/-- A word is legal exactly when its fields pass the five checks of R57. -/
theorem decode_ok_iff_wellFormed (w : Word) : (∃ i, decode w = .ok i) ↔ (CommandFields.ofWord w).wellFormed = true := by
  simp only [decode_eq_ok_iff_fields, CommandFields.exists_fields_eq_iff]

/-- The decoder is total: a word that is no command is illegal. -/
theorem decode_error_iff (w : Word) : (∃ r, decode w = .error r) ↔ ¬∃ i, decode w = .ok i := by
  cases decode w <;> simp

/-- The five checks of R57 as the clauses a word must not meet. The one about `imm` names the codes from 7 on, which among the
assigned ones are those that do not use it. -/
theorem CommandFields.wellFormed_iff (f : CommandFields) :
    f.wellFormed = true ↔ ¬(f.op = 0x0#4 ∨ f.op = 0xF#4 ∨ f.z1 ≠ 0#3 ∨ f.z2 ≠ 0#8 ∨ (0x7#4 ≤ f.op ∧ f.imm ≠ 0#16) ∨
      ((f.op = 0xD#4 ∨ f.op = 0xE#4) ∧ f.ch ≠ 0#1)) := by
  have husesImm : ∀ op : BitVec 4, op ≠ 0#4 → (1#4 ≤ op ∧ op ≤ 6#4 ↔ ¬7#4 ≤ op) := by decide
  have himm := husesImm f.op
  simp only [wellFormed, opAssigned, usesImm, usesChannel, Bool.and_eq_true, Bool.or_eq_true, bne_iff_ne, beq_iff_eq,
    decide_eq_true_eq]
  tauto

/-- Settles O4: the illegal words are those that fail a check of R57, and the checks fail in exactly the clauses listed
(`CommandFields.wellFormed_iff`). -/
theorem illegalWordsAreExactlyThoseListed : Obligations.IllegalWordsAreExactlyThoseListed := by
  unfold Obligations.IllegalWordsAreExactlyThoseListed
  intro w
  rw [decode_error_iff, decode_ok_iff_wellFormed, CommandFields.wellFormed_iff, not_not]
  rfl

/-! ## The rows of the opcode table -/

/-- The operation code and the mnemonic name the same row (R55). -/
theorem Instr.mnemonic_eq_iff (i j : Instr) : i.mnemonic = j.mnemonic ↔ i.fields.op = j.fields.op := by
  cases i <;> cases j <;> simp [mnemonic, fields, CommandFields.format]

/-- The words of a row are the legal ones with its operation code. -/
theorem decode_row_iff (w : Word) (j : Instr) :
    (∃ i, decode w = .ok i ∧ i.mnemonic = j.mnemonic) ↔
      (CommandFields.ofWord w).wellFormed = true ∧ (CommandFields.ofWord w).op = j.fields.op := by
  rw [← CommandFields.exists_fields_eq_iff]
  simp only [decode_eq_ok_iff_fields, Instr.mnemonic_eq_iff]
  grind

/-- A mask acts field by field, since every field is a slice of the word (R54). -/
theorem CommandFields.ofWord_and (v w : Word) :
    ofWord (v &&& w) = ⟨(ofWord v).op &&& (ofWord w).op, (ofWord v).z1 &&& (ofWord w).z1, (ofWord v).ch &&& (ofWord w).ch,
      (ofWord v).z2 &&& (ofWord w).z2, (ofWord v).imm &&& (ofWord w).imm⟩ := by
  simp only [ofWord, BitVec.extractLsb'_and]

/-- `w & mask == match`, field by field: the mask of a row looks at `op`, `z1` and `z2` always, at `ch` and `imm` as it says. -/
theorem and_eq_iff_fields (w : Word) (op : BitVec 4) (ch : BitVec 1) (imm : Half) :
    w &&& CommandFields.toWord ⟨0xF#4, 7#3, ch, 0xFF#8, imm⟩ = (CommandFields.format op 0#1 0#16).toWord ↔
      (CommandFields.ofWord w).op = op ∧ (CommandFields.ofWord w).z1 = 0#3 ∧ (CommandFields.ofWord w).ch &&& ch = 0#1 ∧
        (CommandFields.ofWord w).z2 = 0#8 ∧ (CommandFields.ofWord w).imm &&& imm = 0#16 := by
  have h4 (x : BitVec 4) : x &&& 0xF#4 = x := BitVec.and_allOnes
  have h3 (x : BitVec 3) : x &&& 7#3 = x := BitVec.and_allOnes
  have h8 (x : BitVec 8) : x &&& 0xFF#8 = x := BitVec.and_allOnes
  rw [← CommandFields.toWord_ofWord (w &&& _), CommandFields.toWord_inj, CommandFields.ofWord_and,
    CommandFields.ofWord_toWord]
  simp [CommandFields.format, h4, h3, h8]

/-- The mask of a command's row: the must-be-zero fields and `op`, and an operand's field where the command does not use it. -/
def Instr.rowMask (j : Instr) : Word :=
  CommandFields.toWord ⟨0xF#4, 7#3, if j.fields.usesChannel then 0#1 else 1#1, 0xFF#8,
    if j.fields.usesImm then 0#16 else 0xFFFF#16⟩

/-- The match of a command's row: its operation code, every other bit 0. -/
def Instr.rowMatch (j : Instr) : Word := (CommandFields.format j.fields.op 0#1 0#16).toWord

/-- Fields with a row's operation code are well-formed exactly when the fields that the row's mask looks at are 0 (R57). -/
theorem CommandFields.wellFormed_iff_of_op {f : CommandFields} {j : Instr} (hop : f.op = j.fields.op) :
    f.wellFormed = true ↔ f.z1 = 0#3 ∧ f.ch &&& (if j.fields.usesChannel then 0#1 else 1#1) = 0#1 ∧ f.z2 = 0#8 ∧
      f.imm &&& (if j.fields.usesImm then 0#16 else 0xFFFF#16) = 0#16 := by
  have hch (b : Bool) (x : BitVec 1) : x &&& (if b then 0#1 else 1#1) = 0#1 ↔ (b || x == 0#1) = true := by
    have hone : x &&& 1#1 = x := BitVec.and_allOnes
    cases b <;> simp [hone]
  have himm (b : Bool) (x : Half) : x &&& (if b then 0#16 else 0xFFFF#16) = 0#16 ↔ (b || x == 0#16) = true := by
    have hall : x &&& 0xFFFF#16 = x := BitVec.and_allOnes
    cases b <;> simp [hall]
  have hassigned : f.opAssigned = true := by
    rw [opAssigned, hop]
    cases j <;> rfl
  have husesImm : f.usesImm = j.fields.usesImm := by rw [usesImm, usesImm, hop]
  have husesChannel : f.usesChannel = j.fields.usesChannel := by rw [usesChannel, usesChannel, hop]
  rw [hch, himm, wellFormed, hassigned, husesImm, husesChannel]
  simp only [Bool.true_and, Bool.and_eq_true, beq_iff_eq]
  constructor
  · rintro ⟨⟨⟨hz1, hz2⟩, himm⟩, hch⟩
    exact ⟨hz1, hch, hz2, himm⟩
  · rintro ⟨hz1, hch, hz2, himm⟩
    exact ⟨⟨⟨hz1, hz2⟩, himm⟩, hch⟩

/-- A word decodes to the command of a row exactly when it matches under the row's mask: both say that the operation code is the
row's and that every field the row does not use is 0 (R55, R57). -/
theorem decode_row_iff_mask (w : Word) (j : Instr) :
    (∃ i, decode w = .ok i ∧ i.mnemonic = j.mnemonic) ↔ w &&& j.rowMask = j.rowMatch := by
  rw [decode_row_iff, Instr.rowMask, Instr.rowMatch, and_eq_iff_fields, and_comm]
  exact and_congr_right CommandFields.wellFormed_iff_of_op

/-- Settles O3: each row of the table is `decode_row_iff_mask` at a command of that row, its mask and match evaluated; the operands
are the fields of the command, which are those of the word. -/
theorem wordSelectsCommandByMaskAndMatch : Obligations.WordSelectsCommandByMaskAndMatch := by
  unfold Obligations.WordSelectsCommandByMaskAndMatch
  intro w
  constructor
  · have row := decode_row_iff_mask w
    simp only [List.forall_mem_cons]
    exact ⟨row (.run .ch0 0#16), row (.pol .ch0 0#16), row (.presc .ch0 0#16), row (.entire .ch0 0#16),
      row (.active .ch0 0#16), row (.freqWr .ch0 0#16), row (.rdRun .ch0), row (.rdPol .ch0), row (.rdPresc .ch0),
      row (.rdEntire .ch0), row (.rdActive .ch0), row (.rdFreq .ch0), row .snapshot, row .shutdown, fun _ h => by cases h⟩
  · intro i h
    rw [(decode_eq_ok_iff_fields w i).mp h]
    exact ⟨rfl, rfl, rfl⟩

/-- Settles O5: each word is decoded by evaluation. -/
theorem writtenOutWordsDecode : Obligations.WrittenOutWordsDecode := by
  unfold Obligations.WrittenOutWordsDecode
  decide

end Sys2Proof
end

section
/-! Everything a step can do: one case for each way a turn of the block can end (10_state.md R16, R17; 43_period_protocol.md R105;
44_controller.md R110 to R124). The statements about every step go through these cases. -/

namespace Sys2Proof.Machine

variable {s t : State} {i : Instr} {c d : Chan} {k : Nat} {r : Rollback} {w : Word} {rest : List Word}

/-! ## The state after a poll -/

/-- `s` after a poll of channel `c` below the bound: one read has been made, and it decides the next phase (R100, R102). -/
def State.polled (s : State) (c : Chan) (k : Nat) (r : Rollback) : State :=
  { s.logTx (.read s.params.ctrlAddr s.hw.ctrlRead) with
    phase := if s.hw.busy c then .poll c (k + 1) r else .periodWrite c r }

@[simp] theorem State.polled_params : (s.polled c k r).params = s.params := rfl

@[simp] theorem State.polled_ch0 : (s.polled c k r).ch0 = s.ch0 := rfl

@[simp] theorem State.polled_ch1 : (s.polled c k r).ch1 = s.ch1 := rfl

@[simp] theorem State.polled_chan : (s.polled c k r).chan d = s.chan d := by cases d <;> rfl

@[simp] theorem State.polled_alive : (s.polled c k r).alive = s.alive := rfl

@[simp] theorem State.polled_phase :
    (s.polled c k r).phase = if s.hw.busy c then .poll c (k + 1) r else .periodWrite c r := rfl

@[simp] theorem State.polled_hw : (s.polled c k r).hw = s.hw := rfl

@[simp] theorem State.polled_cmds : (s.polled c k r).cmds = s.cmds := rfl

@[simp] theorem State.polled_index : (s.polled c k r).index = s.index := rfl

@[simp] theorem State.polled_sched : (s.polled c k r).sched = s.sched := rfl

@[simp] theorem State.polled_results : (s.polled c k r).results = s.results := rfl

@[simp] theorem State.polled_portLog :
    (s.polled c k r).portLog = s.portLog ++ [.read s.params.ctrlAddr s.hw.ctrlRead] := rfl

/-- Below the bound, a turn of the loop is one poll (R100). -/
theorem pollOnce_polled (hlimit : s.params.pollLimit ≠ some k) : pollOnce c k r s = .next (s.polled c k r) :=
  pollOnce_reads hlimit

/-! ## What a command can do -/

/-- The command that updates a cycle count: ENTIRE the total, ACTIVE the active count (R114, R115). -/
def CycleField.command : CycleField → Chan → Half → Instr
  | .total => .entire
  | .active => .active

/-- The two causes of ParseError on CMD (R131). -/
def ParseErrorCause (i : Instr) : Prop := ∃ c imm, (i = .pol c imm ∨ i = .presc c imm) ∧ 256 ≤ imm.toNat

/-- The commands that rewrite the control register after a change of one channel (R111 to R113). -/
def IsControlCommand (i : Instr) : Prop := ∃ c imm, i = .run c imm ∨ i = .pol c imm ∨ i = .presc c imm

/-- The results of a decoded command that returns at once and does nothing else: an error with its cause, or the value of a read
(R110, R117 to R122). -/
inductive ReturnsOnly (i : Instr) : Completion → Prop
  | invalidRange {info : ErrorInfo} (hi : InvalidRangeCause i) : ReturnsOnly i ⟨.invalidRange, .unit, info⟩
  | parseError {info : ErrorInfo} (hi : ParseErrorCause i) : ReturnsOnly i ⟨.parseError, .unit, info⟩
  | value {v : Value} (hv : v ≠ .unit) : ReturnsOnly i ⟨.ok, v, .nothing⟩

/-- Everything a command can do from `s`, with the command and the result that go with it (R110). -/
inductive ExecEffect (s : State) : Instr → State → Prop
  | returns {i : Instr} {a : Completion} (ha : ReturnsOnly i a) : ExecEffect s i (s.finish a)
  | control {i : Instr} {c : Chan} {x : ChannelState} (hi : IsControlCommand i) (hx : (s.chan c).ControlChange x) :
      ExecEffect s i ((s.setChan c x).ctrlWrite.finish ⟨.ok, .unit, .nothing⟩)
  | polls {f : CycleField} {c : Chan} {imm : Half} {t : State}
      (h : pollOnce c 0 ⟨f, (s.chan c).cycles f⟩ (s.setChan c ((s.chan c).setCycles f imm)) = .next t) :
      ExecEffect s (f.command c imm) t
  | snapshot : ExecEffect s .snapshot
      { s.logTx (.read s.params.ctrlAddr s.hw.ctrlRead) with phase := .snapshot (.ctrl s.hw.ctrlRead) }
  | shutdown : ExecEffect s .shutdown (State.finish
      { State.ctrlWrite { s with ch0 := s.ch0.setEnabled false, ch1 := s.ch1.setEnabled false } with alive := false }
      ⟨.ok, .unit, .nothing⟩)

/-- A command does one of these things: the case split on its operand, once for all statements about commands. -/
theorem execEffect_of_exec (h : exec i s = .next t) : ExecEffect s i t := by
  have returns {a : Completion} (he : exec i s = .next (s.finish a)) (ha : ReturnsOnly i a) : ExecEffect s i t :=
    next_inj (he.symm.trans h) ▸ .returns ha
  have control {c : Chan} {x : ChannelState} (hi : IsControlCommand i) (hx : (s.chan c).ControlChange x)
      (he : exec i s = .next ((s.setChan c x).ctrlWrite.finish ⟨.ok, .unit, .nothing⟩)) : ExecEffect s i t :=
    next_inj (he.symm.trans h) ▸ .control hi hx
  cases i with
  | run c imm =>
    by_cases hlow : imm.toNat < 2
    · exact control ⟨c, imm, .inl rfl⟩ (ChannelState.setEnabled_controlChange _ _) (execRun_accepts s c imm hlow)
    · exact returns (execRun_rejects s c imm (by omega)) (.invalidRange (.inl ⟨c, imm, rfl, by omega⟩))
  | pol c imm =>
    by_cases hbyte : imm.toNat ≤ 255
    · exact control ⟨c, imm, .inr (.inl rfl)⟩ (ChannelState.setPolarity_controlChange _ _) (execPol_accepts s c imm hbyte)
    · exact returns (execPol_rejects s c imm (by omega)) (.parseError ⟨c, imm, .inl rfl, by omega⟩)
  | presc c imm =>
    by_cases hcode : imm.toNat ≤ 15
    · exact control ⟨c, imm, .inr (.inr rfl)⟩ (ChannelState.setCode_controlChange _ _) (execPresc_accepts s c imm hcode)
    · by_cases hbyte : imm.toNat ≤ 255
      · exact returns (execPresc_outOfRange s c imm (by omega) hbyte)
          (.invalidRange (.inr (.inl ⟨c, imm, rfl, by omega, hbyte⟩)))
      · exact returns (execPresc_notAByte s c imm (by omega)) (.parseError ⟨c, imm, .inr rfl, by omega⟩)
  | entire c imm => exact .polls (f := .total) h
  | active c imm => exact .polls (f := .active) h
  | freqWr c imm => exact returns (execFreqWr_rejects s c imm) (.invalidRange (.inr (.inr ⟨c, imm, rfl⟩)))
  | rdRun c => exact returns (complete_eq _ s) (.value (by simp))
  | rdPol c => exact returns (complete_eq _ s) (.value (by simp))
  | rdPresc c => exact returns (complete_eq _ s) (.value (by simp))
  | rdEntire c => exact returns (complete_eq _ s) (.value (by simp))
  | rdActive c => exact returns (complete_eq _ s) (.value (by simp))
  | rdFreq c => exact returns (complete_eq _ s) (.value (by simp))
  | snapshot => exact next_inj ((execSnapshot_reads s).symm.trans h) ▸ .snapshot
  | shutdown => exact next_inj h ▸ .shutdown

/-! ## What a turn of the block can do -/

/-- The block carries out the word `w`, with `rest` left of the host's list: it takes `w` off the list now, or took it before
(R16, R110). -/
def State.Accepts (s : State) (w : Word) (rest : List Word) : Prop :=
  (s.phase = .idle ∧ s.cmds = w :: rest) ∨ (s.phase = .exec w ∧ s.cmds = rest)

/-- The results of a word that the block answers at once, without any other effect (R110, R134). -/
inductive WordReturnsOnly (w : Word) : Completion → Prop
  | illegal {e : IllegalReason} (he : decode w = .error e) : WordReturnsOnly w ⟨.illegalCommand, .unit, .word w⟩
  | decoded {i : Instr} {a : Completion} (hi : decode w = .ok i) (ha : ReturnsOnly i a) : WordReturnsOnly w a

/-- Everything a turn of the block can do from `s` (R16, R105, R110). A command is carried out at `s.accept w rest`. -/
inductive BlockEffect (s : State) : State → Prop
  | waits (hphase : s.phase = .idle) (hcmds : s.cmds = []) : BlockEffect s s
  | returns {w : Word} {rest : List Word} {a : Completion} (hacc : s.Accepts w rest) (halive : s.alive = true)
      (ha : WordReturnsOnly w a) : BlockEffect s ((s.accept w rest).finish a)
  | control {w : Word} {rest : List Word} {i : Instr} {c : Chan} {x : ChannelState} (hacc : s.Accepts w rest)
      (halive : s.alive = true) (hw : decode w = .ok i) (hi : IsControlCommand i) (hx : (s.chan c).ControlChange x) :
      BlockEffect s (((s.accept w rest).setChan c x).ctrlWrite.finish ⟨.ok, .unit, .nothing⟩)
  | starts {w : Word} {rest : List Word} {f : CycleField} {c : Chan} {imm : Half} (hacc : s.Accepts w rest)
      (halive : s.alive = true) (hw : decode w = .ok (f.command c imm)) :
      BlockEffect s
        (((s.accept w rest).setChan c ((s.chan c).setCycles f imm)).polled c 0 ⟨f, (s.chan c).cycles f⟩)
  | snapshot {w : Word} {rest : List Word} (hacc : s.Accepts w rest) (halive : s.alive = true)
      (hw : decode w = .ok .snapshot) :
      BlockEffect s { (s.accept w rest).logTx (.read s.params.ctrlAddr s.hw.ctrlRead) with
        phase := .snapshot (.ctrl s.hw.ctrlRead) }
  | shutdown {w : Word} {rest : List Word} (hacc : s.Accepts w rest) (halive : s.alive = true)
      (hw : decode w = .ok .shutdown) :
      BlockEffect s (State.finish
        { State.ctrlWrite { s.accept w rest with
            ch0 := s.ch0.setEnabled false, ch1 := s.ch1.setEnabled false } with alive := false }
        ⟨.ok, .unit, .nothing⟩)
  | timeout {c : Chan} {k : Nat} {r : Rollback} (hphase : s.phase = .poll c k r) (hlimit : s.params.pollLimit = some k) :
      BlockEffect s ((s.setChan c ((s.chan c).restore r)).finish ⟨.hardwareTimeout, .unit, .channel c⟩)
  | polls {c : Chan} {k : Nat} {r : Rollback} (hphase : s.phase = .poll c k r) (hlimit : s.params.pollLimit ≠ some k) :
      BlockEffect s (s.polled c k r)
  | writes {c : Chan} {r : Rollback} (hphase : s.phase = .periodWrite c r) (hready : s.hw.busy c = false) :
      BlockEffect s ((s.writePeriod c (periodPack (s.chan c).activeCycles (s.chan c).totalCycles)).finish
        ⟨.ok, .unit, .nothing⟩)
  | snapshotReads {p q : SnapshotReads} (hphase : s.phase = .snapshot p)
      (hq : q.txs s.params = p.txs s.params ++ [p.nextTx s]) :
      BlockEffect s { s.logTx (p.nextTx s) with phase := .snapshot q }
  | snapshotEnds {p : SnapshotReads} {v : Snapshot} (hphase : s.phase = .snapshot p) :
      BlockEffect s ((s.logTx (p.nextTx s)).finish ⟨.ok, .snapshot v, .nothing⟩)

/-- A command carried out at an accepted word is one of the block's effects; with a bound the spec allows, its first poll is no
timeout. -/
theorem ExecEffect.blockEffect (hlimit : s.params.pollLimit ≠ some 0) (hacc : s.Accepts w rest) (halive : s.alive = true)
    (hw : decode w = .ok i) (h : ExecEffect (s.accept w rest) i t) : BlockEffect s t := by
  cases h with
  | returns ha => exact .returns hacc halive (.decoded hw ha)
  | control hi hx => exact .control hacc halive hw hi (by simpa using hx)
  | polls h =>
    rw [pollOnce_polled (by simpa using hlimit), State.accept_chan] at h
    exact next_inj h ▸ .starts hacc halive hw
  | snapshot => exact .snapshot hacc halive hw
  | shutdown => exact .shutdown hacc halive hw

/-- A turn of the block does one of these things. -/
theorem blockEffect_of_blockStep (hlimit : s.params.pollLimit ≠ some 0) (h : blockStep s = .next t) : BlockEffect s t := by
  have carried {w : Word} {rest : List Word} (hacc : s.Accepts w rest) (h : carryOut w (s.accept w rest) = .next t) :
      BlockEffect s t := by
    obtain ⟨halive, ⟨e, he, rfl⟩ | ⟨i, hi, hexec⟩⟩ := carryOut_cases h
    · exact .returns hacc halive (.illegal he)
    · exact (execEffect_of_exec hexec).blockEffect hlimit hacc halive hi
  rcases blockStep_cases h with
    ⟨hphase, hcmds, rfl⟩ | ⟨w, rest, hphase, hcmds, h⟩ | ⟨w, hphase, h⟩ | ⟨c, k, r, hphase, h⟩ | ⟨c, r, hphase, h⟩ |
      ⟨p, hphase, h⟩
  · exact .waits hphase hcmds
  · exact carried (.inl ⟨hphase, hcmds⟩) h
  · have hsame : s.accept w s.cmds = s := by rw [State.accept, ← hphase]
    exact carried (.inr ⟨hphase, rfl⟩) (hsame.symm ▸ h)
  · by_cases hk : s.params.pollLimit = some k
    · obtain rfl := next_inj ((pollOnce_timeout hk).symm.trans h)
      exact .timeout hphase hk
    · obtain rfl := next_inj ((pollOnce_polled hk).symm.trans h)
      exact .polls hphase hk
  · obtain ⟨hready, rfl⟩ := periodWrite_cases h
    exact .writes hphase hready
  · rcases snapshotStep_cases p s with ⟨q, hq, he⟩ | ⟨v, he⟩
    · obtain rfl := next_inj (he.symm.trans h)
      exact .snapshotReads hphase hq
    · obtain rfl := next_inj (he.symm.trans h)
      exact .snapshotEnds hphase

/-- Everything a step can do: `step_cases` with the block's turn taken apart. -/
theorem step_effects (h : step s = .next t) :
    (∃ m turns, s.sched = .peripheral m :: turns ∧
      t = { s with sched := turns, hw := if s.allows m then s.hw.move m else s.hw }) ∨
    (∃ turns, s.sched = .construct :: turns ∧ t = { s with sched := turns }.construct) ∨
    ∃ turns, s.BlocksTurn turns ∧ BlockEffect { s with sched := turns } t := by
  obtain ⟨hparams, hperipheral | hconstruct | ⟨turns, hturn, hblock⟩⟩ := step_cases h
  · exact .inl hperipheral
  · exact .inr (.inl hconstruct)
  · exact .inr (.inr ⟨turns, hturn, blockEffect_of_blockStep (Params.limit_pos hparams) hblock⟩)

/-- On the block's turn, a step is one of the effects of a turn of the block. -/
theorem blockEffect_of_step {turns : List Turn} (hturn : s.BlocksTurn turns) (h : step s = .next t) :
    BlockEffect { s with sched := turns } t := by
  have hparams := (step_cases h).1
  rw [step_block hparams hturn] at h
  exact blockEffect_of_blockStep (Params.limit_pos hparams) h

/-- A word accepted is a word carried out, if the step leaves the rest of the list alone. -/
theorem State.Accepts.carriesOut (hacc : s.Accepts w rest) (hcmds : t.cmds = rest) : s.CarriesOut t w :=
  hacc.imp (fun ⟨hphase, hlist⟩ => ⟨hphase, hcmds ▸ hlist⟩) And.left

end Sys2Proof.Machine
end

section
/-! The control register image, bit by bit (42_control_codec.md, R90 to R95; 30_encoding.md R50 to R53). -/

namespace Sys2Proof.Machine

theorem Mode.bit_eq (m : Mode) : m.bit = (m == .singlePulse) := by cases m <;> rfl

@[simp] theorem Mode.ofBit_bit (m : Mode) : Mode.ofBit m.bit = m := by cases m <;> rfl

@[simp] theorem Mode.bit_ofBit (b : Bool) : (Mode.ofBit b).bit = b := by cases b <;> rfl

/-- The ten bits of a channel, in the order of R90; there is none from bit 10 on. -/
theorem ChannelFields.pack_getLsbD (f : ChannelFields) (n : Nat) : f.pack.getLsbD n =
    if n < 4 then f.prescaleCode.getLsbD n
    else if n = 4 then f.enabled
    else if n = 5 then f.polarity
    else if n = 6 then f.clockGating
    else if n = 7 then f.mode.bit
    else if n = 8 then f.pulseStart
    else if n = 9 then f.bypass
    else false := by
  by_cases hn : n < 10
  · interval_cases n <;> simp [pack]
  · have hcode : f.prescaleCode.getLsbD n = false := BitVec.getLsbD_of_ge _ _ (by omega)
    have hlt (k : Nat) (hk : k ≤ 10) : ¬n < k := by omega
    have hne (k : Nat) (hk : k < 10) : n ≠ k := by omega
    have hsub (k : Nat) (hk : k < 10) : n - k ≠ 0 := by omega
    simp [pack, b2w_getLsbD, hcode, hlt, hne, hsub]

/-- Two channel fields side by side: channel 0 from bit 0, channel 1 from bit 15 (R91). -/
theorem packFields_getLsbD (f0 f1 : ChannelFields) (n : Nat) :
    (packFields f0 f1).getLsbD n = if n < 15 then f0.pack.getLsbD n else if n < 25 then f1.pack.getLsbD (n - 15) else false := by
  have hhigh (f : ChannelFields) (m : Nat) (hm : 10 ≤ m) : f.pack.getLsbD m = false := by
    rw [ChannelFields.pack_getLsbD]
    grind
  rw [packFields, BitVec.getLsbD_or, BitVec.getLsbD_shiftLeft]
  split
  · simp [*]
  · rw [hhigh f0 n (by omega)]
    split
    · simp [*]; omega
    · simp [hhigh f1 (n - 15) (by omega)]

/-- The image reads nothing of the records but their packed fields (R90, R91). -/
theorem pack_eq_packFields (s0 s1 : ChannelState) : pack s0 s1 = packFields s0.fields s1.fields := rfl

/-- Settles O11: the two channels' fields side by side (`packFields_getLsbD`), each laid out as `ChannelFields.pack_getLsbD` says. -/
theorem packedControlRegisterBits : Obligations.PackedControlRegisterBits := by
  unfold Obligations.PackedControlRegisterBits
  intro s0 s1 n
  rw [pack_eq_packFields, packFields_getLsbD, ChannelFields.pack_getLsbD, ChannelFields.pack_getLsbD]
  simp only [ChannelState.fields, Mode.bit_eq]
  by_cases hn : n < 25
  · interval_cases n <;> rfl
  · have hlt (k : Nat) (hk : k ≤ 25) : ¬n < k := by omega
    have hne (k : Nat) (hk : k < 25) : n ≠ k := by omega
    simp [hlt, hne]

/-- The ten bits at a channel's place give its fields back, whatever else the value holds (R92). -/
theorem fieldsAt_eq_of_getLsbD {raw : Word} {at0 : Nat} {f : ChannelFields}
    (h : ∀ n < 10, raw.getLsbD (at0 + n) = f.pack.getLsbD n) : fieldsAt raw at0 = f := by
  simp only [ChannelFields.pack_getLsbD] at h
  have hcode : raw.extractLsb' at0 4 = f.prescaleCode := by
    apply BitVec.eq_of_getLsbD_eq
    intro n hn
    simpa [hn] using h n (by omega)
  rw [fieldsAt, hcode, h 4 (by omega), h 5 (by omega), h 6 (by omega), h 7 (by omega), h 8 (by omega), h 9 (by omega)]
  simp

/-- `unpack` after `pack'` gives both channels' fields and no busy flag: bits 28 and 29 belong to no channel (R91, R92). -/
theorem unpack_packFields (f0 f1 : ChannelFields) : unpack (packFields f0 f1) = ⟨f0, f1, false, false⟩ := by
  have h0 : fieldsAt (packFields f0 f1) 0 = f0 := by
    refine fieldsAt_eq_of_getLsbD fun n hn => ?_
    simp [packFields_getLsbD, show n < 15 by omega]
  have h1 : fieldsAt (packFields f0 f1) 15 = f1 := by
    refine fieldsAt_eq_of_getLsbD fun n hn => ?_
    simp [packFields_getLsbD, show 15 + n < 25 by omega]
  simp only [unpack, h0, h1, packFields_getLsbD]
  rfl

/-- Settles O12: `unpack_packFields` at the fields of the two records. -/
theorem unpackOfPackGivesTheFields : Obligations.UnpackOfPackGivesTheFields := by
  unfold Obligations.UnpackOfPackGivesTheFields
  intro s0 s1
  exact unpack_packFields s0.fields s1.fields

/-- The bits of the mask of the field bits: ten from bit 0 and ten from bit 15 (R51). -/
theorem ctrlFieldsMask_getLsbD (n : Nat) :
    Config.ctrlFieldsMask.getLsbD n = (decide (n < 10) || (decide (15 ≤ n) && decide (n < 25))) := by
  by_cases hn : n < 32
  · interval_cases n <;> rfl
  · rw [BitVec.getLsbD_of_ge _ _ (by omega)]
    grind

/-- The bits of a channel, read and packed again, are the ten bits at its place (R90, R92). -/
theorem fieldsAt_pack_getLsbD (raw : Word) (at0 n : Nat) :
    (fieldsAt raw at0).pack.getLsbD n = (decide (n < 10) && raw.getLsbD (at0 + n)) := by
  rw [ChannelFields.pack_getLsbD]
  by_cases hn : n < 10
  · interval_cases n <;> simp [fieldsAt]
  · grind

/-- Settles O13: bit by bit, each channel keeps its own ten bits (`fieldsAt_pack_getLsbD`), and these are the bits of the mask. -/
theorem packOfUnpackMasksTheFields : Obligations.PackOfUnpackMasksTheFields := by
  unfold Obligations.PackOfUnpackMasksTheFields
  intro raw
  apply BitVec.eq_of_getLsbD_eq
  intro n hn
  have hmask := ctrlFieldsMask_getLsbD n
  rw [BitVec.getLsbD_and, show (0x01FF83FF#32).getLsbD n = _ from hmask, packFields_getLsbD]
  simp only [unpack, fieldsAt_pack_getLsbD]
  grind

/-- The image has no bit outside the mask of the field bits (R51, R91). -/
theorem pack_and_ctrlFieldsMask (s0 s1 : ChannelState) : pack s0 s1 &&& Config.ctrlFieldsMask = pack s0 s1 := by
  have h := packOfUnpackMasksTheFields (pack s0 s1)
  rw [pack_eq_packFields, unpack_packFields] at h
  exact h.symm

/-- Settles O15: the two equations are `periodUnpack_periodPack` and `periodPack_periodUnpack`. -/
theorem periodUnpackIsTheInverse : Obligations.PeriodUnpackIsTheInverse := by
  unfold Obligations.PeriodUnpackIsTheInverse
  exact ⟨periodUnpack_periodPack, periodPack_periodUnpack⟩

end Sys2Proof.Machine
end

section
/-! The output frequency (40_prescaler_frequency.md, R70 to R73). -/

namespace Sys2Proof.Machine

variable {code : Code} {total : Half} {d : Nat}

/-- The five codes without a divisor (R70). -/
theorem divisorOf_reserved_iff : divisorOf code = .reserved ↔ code ∈ [5#4, 6#4, 7#4, 13#4, 14#4] := by
  revert code
  decide

/-- No code of the table divides by 0 (R70). -/
theorem divisorOf_pos (h : divisorOf code = .divisor d) : 0 < d := by
  have hzero : ∀ code, divisorOf code ≠ .divisor 0 := by decide
  exact Nat.pos_of_ne_zero fun hd => hzero code (hd ▸ h)

theorem outputFrequency_reserved (h : divisorOf code = .reserved) : outputFrequency code total = .undefined := by
  rw [outputFrequency, h]

/-- With a divisor the frequency is a number, not wrapped: the quotient is at most the clock, which 32 bits hold (R71, R73). -/
theorem outputFrequency_divisor (h : divisorOf code = .divisor d) :
    ∃ n, outputFrequency code total = .hz n ∧ n.toNat = 24000000 / d / (total.toNat + 1) := by
  have hle : 24000000 / d / (total.toNat + 1) ≤ 24000000 := (Nat.div_le_self _ _).trans (Nat.div_le_self _ _)
  refine ⟨BitVec.ofNat 32 (24000000 / d / (total.toNat + 1)), ?_, ?_⟩
  · rw [outputFrequency, h]
    rfl
  · rw [BitVec.toNat_ofNat, Nat.mod_eq_of_lt (by omega)]

/-- Settles O7: `outputFrequency_divisor` gives the quotient in the spec's grouping, and dividing twice is dividing by the product. -/
theorem outputFrequencyIsTheTruncatedQuotient : Obligations.OutputFrequencyIsTheTruncatedQuotient := by
  unfold Obligations.OutputFrequencyIsTheTruncatedQuotient
  intro code total
  refine ⟨outputFrequency_reserved, fun d hd => ?_⟩
  obtain ⟨n, hn, hquotient⟩ := outputFrequency_divisor (total := total) hd
  exact ⟨n, hn, hquotient, hquotient.trans (Nat.div_div_eq_div_mul _ _ _)⟩

/-- Settles O8: a code has a divisor or is one of the reserved five; with a divisor `d` the frequency is the quotient of the clock
by `d * (total_cycles + 1)`, which is 0 exactly when the product exceeds the clock. -/
theorem outputFrequencyBounds : Obligations.OutputFrequencyBounds := by
  unfold Obligations.OutputFrequencyBounds
  intro code total
  rw [← divisorOf_reserved_iff]
  cases hd : divisorOf code with
  | reserved => simp [outputFrequency_reserved hd]
  | divisor d =>
    obtain ⟨n, hn, hquotient⟩ := outputFrequency_divisor (total := total) hd
    have hpos := divisorOf_pos hd
    rw [Nat.div_div_eq_div_mul] at hquotient
    refine ⟨by simp [hn], fun m hm => ?_⟩
    obtain rfl : n = m := by simpa [hn] using hm
    refine ⟨hquotient ▸ Nat.div_le_self _ _, d, rfl, ?_⟩
    rw [← BitVec.toNat_inj, hquotient]
    simp [Nat.div_eq_zero_iff, hpos.ne']

end Sys2Proof.Machine
end

section
/-! The peripheral's registers, and its own moves (20_memory.md, R37 to R40). -/

namespace Sys2Proof.Machine

variable {p : Peripheral} {c : Chan}

theorem Peripheral.ctrlRead_getLsbD (p : Peripheral) (n : Nat) :
    p.ctrlRead.getLsbD n = if n = 28 then p.busy0 else if n = 29 then p.busy1 else p.ctrl.getLsbD n := by
  by_cases hn : n < 32
  · simp only [ctrlRead, BitVec.getLsbD_or, BitVec.getLsbD_and, BitVec.getLsbD_not, BitVec.getLsbD_shiftLeft,
      busyMask_getLsbD, b2w_getLsbD]
    grind
  · simp [BitVec.getLsbD_of_ge _ n (Nat.le_of_not_lt hn)]
    grind

theorem Peripheral.storeCtrl_getLsbD (p : Peripheral) (v : Word) (n : Nat) :
    (p.storeCtrl v).ctrl.getLsbD n = if n = 28 ∨ n = 29 then false else v.getLsbD n := by
  by_cases hn : n < 32
  · simp only [storeCtrl, BitVec.getLsbD_and, BitVec.getLsbD_not, busyMask_getLsbD]
    grind
  · simp [BitVec.getLsbD_of_ge _ n (Nat.le_of_not_lt hn)]

theorem Peripheral.storePeriod_written (p : Peripheral) (c : Chan) (v : Word) : (p.storePeriod c v).written c = true := by
  cases c <;> rfl

theorem Peripheral.storePeriod_written_ne (p : Peripheral) {c d : Chan} (v : Word) (h : d ≠ c) :
    (p.storePeriod c v).written d = p.written d := by
  cases c <;> cases d <;> simp_all [storePeriod, written]

theorem Peripheral.storePeriod_pinmux (p : Peripheral) (c : Chan) (v : Word) : (p.storePeriod c v).pinmux = p.pinmux := by
  cases c <;> rfl

/-- Settles O16: the reads and the control write bit by bit, and the fields of `storePeriod` one by one. -/
theorem registerReadsAndWrites : Obligations.RegisterReadsAndWrites := by
  unfold Obligations.RegisterReadsAndWrites
  constructor
  · intro p v n
    exact ⟨p.ctrlRead_getLsbD n, p.storeCtrl_getLsbD v n, rfl⟩
  · intro p c v
    exact ⟨p.storePeriod_period c v, p.storePeriod_period_ne c _ v (otherChan_ne c), p.storePeriod_written c v,
      p.storePeriod_written_ne v (otherChan_ne c), p.storePeriod_busy c v, p.storePeriod_ctrl c v,
      p.storePeriod_pinmux c v⟩

/-! ## The moves of the peripheral -/

/-- The padding bits and the field bits are apart (R51, R59), so a draw of the padding changes no field bit. -/
theorem Peripheral.move_ctrl_fields (p : Peripheral) (m : PeripheralMove) :
    (p.move m).ctrl &&& Config.ctrlFieldsMask = p.ctrl &&& Config.ctrlFieldsMask := by
  cases m with
  | raiseBusy c => cases c <;> simp only [move] <;> split <;> rfl
  | dropBusy c => cases c <;> rfl
  | drawPinmux v => rfl
  | drawPadding v =>
    have hkeep : ~~~Config.paddingMask &&& Config.ctrlFieldsMask = Config.ctrlFieldsMask := by decide
    have hdrop : Config.paddingMask &&& Config.ctrlFieldsMask = 0#32 := by decide
    simp only [move, BitVec.and_or_distrib_right, BitVec.and_assoc, hkeep, hdrop]
    simp

/-- The drawn bits are those of the drawn value (R37). -/
theorem Peripheral.drawPadding_ctrl (p : Peripheral) (v : Word) :
    (p.move (.drawPadding v)).ctrl &&& Config.paddingMask = v &&& Config.paddingMask := by
  have hdrop : ~~~Config.paddingMask &&& Config.paddingMask = 0#32 := by decide
  simp only [move, BitVec.and_or_distrib_right, BitVec.and_assoc, hdrop, BitVec.and_self]
  simp

/-- A move keeps both period registers and the record of the period writes (R39). -/
theorem Peripheral.move_period (p : Peripheral) (m : PeripheralMove) (c : Chan) :
    (p.move m).period c = p.period c ∧ (p.move m).written c = p.written c := by
  cases m with
  | raiseBusy d =>
    simp only [move]
    split
    · cases d <;> cases c <;> exact ⟨rfl, rfl⟩
    · exact ⟨rfl, rfl⟩
  | dropBusy d => cases d <;> cases c <;> exact ⟨rfl, rfl⟩
  | drawPadding v => cases c <;> exact ⟨rfl, rfl⟩
  | drawPinmux v => cases c <;> exact ⟨rfl, rfl⟩

@[simp] theorem Peripheral.setBusy_busy (p : Peripheral) (c : Chan) (b : Bool) : (p.setBusy c b).busy c = b := by
  cases c <;> rfl

theorem Peripheral.setBusy_busy_ne (p : Peripheral) {c d : Chan} (b : Bool) (h : d ≠ c) :
    (p.setBusy c b).busy d = p.busy d := by
  cases c <;> cases d <;> simp_all [setBusy, busy]

theorem Peripheral.setBusy_ctrl (p : Peripheral) (c : Chan) (b : Bool) : (p.setBusy c b).ctrl = p.ctrl := by
  cases c <;> rfl

theorem Peripheral.setBusy_pinmux (p : Peripheral) (c : Chan) (b : Bool) : (p.setBusy c b).pinmux = p.pinmux := by
  cases c <;> rfl

/-- A busy flag is raised by the raise of its own channel, after a period write, and dropped by the drop of its own channel
(R39, R40). -/
theorem Peripheral.move_busy (p : Peripheral) (m : PeripheralMove) (c : Chan) :
    (p.move m).busy c = p.busy c ∨ (m = .raiseBusy c ∧ p.written c = true ∧ (p.move m).busy c = true) ∨
      (m = .dropBusy c ∧ (p.move m).busy c = false) := by
  cases m with
  | raiseBusy d =>
    simp only [move]
    split
    · rename_i hwritten
      by_cases hd : c = d
      · subst hd
        exact .inr (.inl ⟨rfl, hwritten, p.setBusy_busy c true⟩)
      · exact .inl (p.setBusy_busy_ne true hd)
    · exact .inl rfl
  | dropBusy d =>
    by_cases hd : c = d
    · subst hd
      exact .inr (.inr ⟨rfl, p.setBusy_busy c false⟩)
    · exact .inl (p.setBusy_busy_ne false hd)
  | drawPadding v => cases c <;> exact .inl rfl
  | drawPinmux v => cases c <;> exact .inl rfl

/-- A turn of the peripheral makes the move where it can be made now, and else nothing. -/
def State.movedHw (s : State) (m : PeripheralMove) : Peripheral := if s.allows m then s.hw.move m else s.hw

variable {s : State} {m : PeripheralMove}

theorem State.movedHw_of_allows (h : s.allows m = true) : s.movedHw m = s.hw.move m := if_pos h

/-- Every move but a raise just before the channel's period write can be made (R102). -/
theorem State.allows_raiseBusy_iff : s.allows (.raiseBusy c) = true ↔ ∀ r, s.phase ≠ .periodWrite c r := by
  rw [allows, Bool.not_eq_true', ← Bool.not_eq_true, awaitsWrite_iff]
  exact not_exists

theorem State.movedHw_period (s : State) (m : PeripheralMove) (c : Chan) :
    (s.movedHw m).period c = s.hw.period c ∧ (s.movedHw m).written c = s.hw.written c := by
  unfold movedHw
  split
  · exact s.hw.move_period m c
  · exact ⟨rfl, rfl⟩

theorem State.movedHw_ctrl_fields (s : State) (m : PeripheralMove) :
    (s.movedHw m).ctrl &&& Config.ctrlFieldsMask = s.hw.ctrl &&& Config.ctrlFieldsMask := by
  unfold movedHw
  split
  · exact s.hw.move_ctrl_fields m
  · rfl

/-- `Peripheral.move_busy` for a turn: a raise also needs that the channel's period write is not the block's next step (R102). -/
theorem State.movedHw_busy (s : State) (m : PeripheralMove) (c : Chan) :
    (s.movedHw m).busy c = s.hw.busy c ∨
      (m = .raiseBusy c ∧ s.hw.written c = true ∧ (∀ r, s.phase ≠ .periodWrite c r) ∧ (s.movedHw m).busy c = true) ∨
      (m = .dropBusy c ∧ (s.movedHw m).busy c = false) := by
  unfold movedHw
  split
  · rename_i hallows
    rcases s.hw.move_busy m c with h | ⟨rfl, hwritten, hbusy⟩ | h
    · exact .inl h
    · exact .inr (.inl ⟨rfl, hwritten, allows_raiseBusy_iff.mp hallows, hbusy⟩)
    · exact .inr (.inr h)
  · exact .inl rfl

/-- Settles O17: a construction and a turn of the block keep the flags (`blockStep_busy`), and a turn of the peripheral changes one
only as `State.movedHw_busy` says. -/
theorem busyFlagsMoveOnlyByThePeripheral : Obligations.BusyFlagsMoveOnlyByThePeripheral := by
  unfold Obligations.BusyFlagsMoveOnlyByThePeripheral
  intro s t c h hne
  obtain ⟨-, ⟨m, rest, hsched, rfl⟩ | ⟨rest, -, rfl⟩ | ⟨rest, -, hblock⟩⟩ := step_cases h
  · rcases s.movedHw_busy m c with hsame | ⟨rfl, hwritten, hphase, hraised⟩ | ⟨rfl, hdropped⟩
    · exact absurd hsame hne
    · exact .inl ⟨hraised, hwritten, hphase, rest, hsched⟩
    · exact .inr ⟨hdropped, rest, hsched⟩
  · exact absurd rfl hne
  · exact absurd (blockStep_busy c hblock) hne

/-- Settles O18: the step is `step_peripheral`, the registers it keeps are those of `State.movedHw_period` and
`State.movedHw_ctrl_fields`, and the rest is one case per move. -/
theorem peripheralTurnsMoveOnlyThePeripheral : Obligations.PeripheralTurnsMoveOnlyThePeripheral := by
  unfold Obligations.PeripheralTurnsMoveOnlyThePeripheral
  intro s m rest hparams hsched
  have h0 := s.movedHw_period m .ch0
  have h1 := s.movedHw_period m .ch1
  refine ⟨s.movedHw m, step_peripheral hparams hsched, h0.1, h1.1, h0.2, h1.2, s.movedHw_ctrl_fields m, ?_⟩
  cases m with
  | raiseBusy c =>
    by_cases hallows : s.allows (.raiseBusy c) = true
    · have hphase := State.allows_raiseBusy_iff.mp hallows
      rw [State.movedHw_of_allows hallows, Peripheral.move]
      cases hwritten : s.hw.written c
      · simp [hwritten]
      · simp [hwritten, hphase, Peripheral.setBusy_busy_ne _ _ (otherChan_ne c), Peripheral.setBusy_ctrl, Peripheral.setBusy_pinmux]
    · have hphase : ∃ r, s.phase = .periodWrite c r := by
        simpa [State.allows_raiseBusy_iff] using hallows
      have hsame : s.movedHw (.raiseBusy c) = s.hw := if_neg hallows
      simp only [hsame, and_true, implies_true]
      exact fun _ h => absurd hphase (not_exists.mpr h)
  | dropBusy c =>
    exact ⟨s.hw.setBusy_busy c false, s.hw.setBusy_busy_ne false (otherChan_ne c), s.hw.setBusy_ctrl c false,
      s.hw.setBusy_pinmux c false⟩
  | drawPadding v => exact ⟨rfl, s.hw.drawPadding_ctrl v⟩
  | drawPinmux v => rfl

end Sys2Proof.Machine
end

section
/-! The sound states, and what every step keeps of them (10_state.md R11, R24; 43_period_protocol.md R100, R102; 44_controller.md
R110, R123). -/

namespace Sys2Proof.Machine

variable {s t : State} {c d : Chan} {k : Nat} {r : Rollback} {x : ChannelState} {w : Word} {rest : List Word}

/-- Both records have their hard-wired identity and keep the defaults without a setter (R11, R24). -/
def State.ChansSound (s : State) : Prop := ∀ c, (s.chan c).channelId = c ∧ (s.chan c).KeepsDefaults

theorem State.Sound.chans (h : s.Sound) : s.ChansSound
  | .ch0 => ⟨h.id0, h.keeps0⟩
  | .ch1 => ⟨h.id1, h.keeps1⟩

theorem State.ChansSound.sound (hchans : s.ChansSound) (hphase : s.PhaseSound) (halive : s.phase ≠ .idle → s.alive = true) :
    s.Sound :=
  ⟨(hchans .ch0).1, (hchans .ch1).1, (hchans .ch0).2, (hchans .ch1).2, hphase, halive⟩

/-- The records as a function of the channel are the two fields. -/
theorem State.chan_congr (h0 : t.ch0 = s.ch0) (h1 : t.ch1 = s.ch1) : ∀ c, t.chan c = s.chan c
  | .ch0 => h0
  | .ch1 => h1

theorem State.ChansSound.congr (h : s.ChansSound) (hchan : ∀ c, t.chan c = s.chan c) : t.ChansSound :=
  fun c => hchan c ▸ h c

/-- A new record that is sound by itself keeps both records sound. -/
theorem State.ChansSound.setChan (h : s.ChansSound) (hx : x.channelId = c ∧ x.KeepsDefaults) : (s.setChan c x).ChansSound := by
  intro d
  by_cases hd : d = c
  · subst hd
    rwa [setChan_chan]
  · rw [setChan_chan_ne _ _ _ _ hd]
    exact h d

/-- A sound record is sound after the setter of a control command, and with a cycle count set or taken back (R24). -/
theorem ChannelState.ControlChange.sound {y : ChannelState} (hy : x.ControlChange y) (hx : x.channelId = c ∧ x.KeepsDefaults) :
    y.channelId = c ∧ y.KeepsDefaults :=
  ⟨hy.channelId.trans hx.1, hy.keeps hx.2⟩

theorem ChannelState.setCycles_sound (f : CycleField) (v : Half) (hx : x.channelId = c ∧ x.KeepsDefaults) :
    (x.setCycles f v).channelId = c ∧ (x.setCycles f v).KeepsDefaults :=
  ⟨(x.setCycles_channelId f v).trans hx.1, x.setCycles_keeps f v hx.2⟩

theorem ChannelState.reset_sound (c : Chan) : (ChannelState.reset c).channelId = c ∧ (ChannelState.reset c).KeepsDefaults :=
  ⟨rfl, rfl, rfl, rfl, rfl⟩

/-- An idle state is sound as soon as its records are: no command is in progress. -/
theorem State.ChansSound.sound_of_idle (h : s.ChansSound) (hphase : s.phase = .idle) : s.Sound :=
  h.sound (by rw [PhaseSound, hphase]; trivial) fun hne => absurd hphase hne

/-- A poll below the bound leads to a sound phase: one more read within the bound, or a period write that the read has shown
ready (R100, R102). -/
theorem State.polled_phaseSound (hle : ∀ n, s.params.pollLimit = some n → k ≤ n) (hk : s.params.pollLimit ≠ some k) :
    (s.polled c k r).PhaseSound := by
  cases hbusy : s.hw.busy c
  · have hphase : (s.polled c k r).phase = .periodWrite c r := by simp [hbusy]
    rw [PhaseSound, hphase]
    exact ⟨hbusy, s.portLog, s.hw.ctrlRead, rfl, by simpa using hbusy⟩
  · have hphase : (s.polled c k r).phase = .poll c (k + 1) r := by simp [hbusy]
    rw [PhaseSound, hphase]
    refine ⟨Nat.le_add_left 1 k, fun n hn => ?_⟩
    exact Nat.lt_of_le_of_ne (hle n hn) fun heq => hk (heq ▸ hn)

/-- A turn of the peripheral keeps the phase sound: it does not raise the flag of a channel whose period write is next (R102). -/
theorem State.PhaseSound.movedHw (h : s.PhaseSound) (m : PeripheralMove) (turns : List Turn) :
    State.PhaseSound { s with sched := turns, hw := s.movedHw m } := by
  cases hphase : s.phase with
  | periodWrite c r =>
    simp only [PhaseSound, hphase] at h ⊢
    refine ⟨?_, h.2⟩
    rcases s.movedHw_busy m c with hsame | ⟨-, -, hnext, -⟩ | ⟨-, hdropped⟩
    · exact hsame.trans h.1
    · exact absurd hphase (hnext r)
    · exact hdropped
  | idle | exec w => simp only [PhaseSound, hphase] at h ⊢
  | poll c k r | snapshot p =>
    simp only [PhaseSound, hphase] at h ⊢
    exact h

/-- A turn of the block keeps the sound states: a command that ends leaves sound records and an idle block, and one that goes on
leaves a phase that fits what it has just read. -/
theorem BlockEffect.sound (heff : BlockEffect s t) (hlimit : s.params.pollLimit ≠ some 0) (h : s.Sound) : t.Sound := by
  have hchans := h.chans
  have hphase := h.phase
  have haccept (w : Word) (rest : List Word) : (s.accept w rest).ChansSound := hchans.congr (s.accept_chan w rest)
  cases heff with
  | waits => exact h
  | returns => exact (hchans.congr (by simp)).sound_of_idle rfl
  | @control w rest i c x hacc halive hw hi hx =>
    exact (((haccept w rest).setChan (hx.sound (hchans c))).congr (by simp)).sound_of_idle rfl
  | @starts w rest f c imm hacc halive hw =>
    have hset := (haccept w rest).setChan (ChannelState.setCycles_sound f imm (hchans c))
    refine (hset.congr (by simp)).sound ?_ fun _ => ?_
    · exact State.polled_phaseSound (fun n _ => Nat.zero_le n) (by simpa using hlimit)
    · simpa using halive
  | snapshot hacc halive hw =>
    exact State.ChansSound.sound (hchans.congr (State.chan_congr rfl rfl)) ⟨_, rfl⟩ fun _ => halive
  | shutdown hacc halive hw =>
    refine State.ChansSound.sound_of_idle (fun c => ?_) rfl
    cases c
    · exact (ChannelState.setEnabled_controlChange _ _).sound (hchans .ch0)
    · exact (ChannelState.setEnabled_controlChange _ _).sound (hchans .ch1)
  | @timeout c k r hp hk =>
    have hset : (s.setChan c ((s.chan c).restore r)).ChansSound :=
      hchans.setChan (ChannelState.setCycles_sound r.field r.old (hchans c))
    exact (hset.congr (by simp)).sound_of_idle rfl
  | polls hp hk =>
    rw [State.PhaseSound, hp] at hphase
    refine (hchans.congr (by simp)).sound (State.polled_phaseSound hphase.2 hk) fun _ => ?_
    exact h.alive (by simp [hp])
  | writes => exact (hchans.congr (by simp)).sound_of_idle rfl
  | @snapshotReads p q hp hq =>
    rw [State.PhaseSound, hp] at hphase
    obtain ⟨l, hl⟩ := hphase
    refine State.ChansSound.sound (hchans.congr (State.chan_congr rfl rfl)) ⟨l, ?_⟩ fun _ => h.alive (by simp [hp])
    show s.portLog ++ [p.nextTx s] = l ++ q.txs s.params
    rw [hq, hl, List.append_assoc]
  | snapshotEnds => exact (hchans.congr (by simp)).sound_of_idle rfl

/-- Settles O51: a turn of the peripheral keeps the records and, by `State.PhaseSound.movedHw`, the phase; a construction makes
sound records and an idle block; a turn of the block is `BlockEffect.sound`. -/
theorem stepKeepsSoundStates : Obligations.StepKeepsSoundStates := by
  unfold Obligations.StepKeepsSoundStates
  intro s t h hstep
  rcases step_effects hstep with ⟨m, turns, -, rfl⟩ | ⟨turns, -, rfl⟩ | ⟨turns, -, heff⟩
  · exact ⟨h.id0, h.id1, h.keeps0, h.keeps1, h.phase.movedHw m turns, h.alive⟩
  · refine State.ChansSound.sound_of_idle (fun c => ?_) rfl
    cases c
    · exact ChannelState.reset_sound .ch0
    · exact ChannelState.reset_sound .ch1
  · have hlimit : s.params.pollLimit ≠ some 0 := Params.limit_pos (step_cases hstep).1
    have hsched : State.Sound { s with sched := turns } := ⟨h.id0, h.id1, h.keeps0, h.keeps1, h.phase, h.alive⟩
    exact heff.sound hlimit hsched

/-- Settles O50: construction makes records that are sound by themselves and leaves the block idle. -/
theorem launchStateIsSound : Obligations.LaunchStateIsSound := by
  unfold Obligations.LaunchStateIsSound
  intro p hw
  refine State.ChansSound.sound_of_idle (fun c => ?_) rfl
  cases c
  · exact ChannelState.reset_sound .ch0
  · exact ChannelState.reset_sound .ch1

end Sys2Proof.Machine
end

section
/-! The mirror and the peripheral (44_controller.md R126): every step but a construction keeps them coherent. -/

namespace Sys2Proof.Machine

variable {s t : State} {c d : Chan} {k : Nat} {r : Rollback} {w : Word} {rest : List Word}

/-! ## The control register -/

/-- Coherence depends only on the field bits of the register and on the packed fields of the records (R90, R126). -/
theorem State.ControlCoherent.congr (h : s.ControlCoherent)
    (hctrl : t.hw.ctrl &&& Config.ctrlFieldsMask = s.hw.ctrl &&& Config.ctrlFieldsMask)
    (hfields : ∀ c, (t.chan c).fields = (s.chan c).fields) : t.ControlCoherent := by
  rw [ControlCoherent, hctrl, h]
  exact (pack_congr (hfields .ch0) (hfields .ch1)).symm

/-- A write of the whole register makes it coherent, whatever it held before (R125, R126). -/
theorem State.ctrlWrite_controlCoherent (s : State) : s.ctrlWrite.ControlCoherent := by
  rw [ControlCoherent, ctrlWrite_hw, Peripheral.storeCtrl_pack]
  exact pack_and_ctrlFieldsMask s.ch0 s.ch1

/-- Setting or taking back a cycle count changes no packed field (R90). -/
theorem State.setChan_setCycles_fields (f : CycleField) (v : Half) :
    ((s.setChan c ((s.chan c).setCycles f v)).chan d).fields = (s.chan d).fields := by
  by_cases hd : d = c
  · subst hd
    rw [setChan_chan, ChannelState.setCycles_fields]
  · rw [setChan_chan_ne _ _ _ _ hd]

theorem BlockEffect.controlCoherent (heff : BlockEffect s t) (h : s.ControlCoherent) : t.ControlCoherent := by
  cases heff with
  | waits => exact h
  | returns => exact h
  | control => exact State.ctrlWrite_controlCoherent _
  | starts =>
    refine h.congr (by simp) fun d => ?_
    simp only [State.polled_chan]
    exact State.setChan_setCycles_fields _ _
  | snapshot => exact h
  | shutdown => exact State.ctrlWrite_controlCoherent _
  | timeout =>
    refine h.congr (by simp) fun d => ?_
    simp only [State.finish_chan]
    exact State.setChan_setCycles_fields _ _
  | polls => exact h
  | writes => exact h.congr (by simp) (by simp)
  | snapshotReads => exact h
  | snapshotEnds => exact h

/-- Settles O53: the peripheral's own moves keep the field bits of the register (`State.movedHw_ctrl_fields`), and a turn of the
block keeps coherence or restores it with a write of the whole register. -/
theorem stepKeepsControlCoherence : Obligations.StepKeepsControlCoherence := by
  unfold Obligations.StepKeepsControlCoherence
  intro s t h hconstruct hstep
  rcases step_effects hstep with ⟨m, turns, -, rfl⟩ | ⟨turns, hsched, -⟩ | ⟨turns, -, heff⟩
  · exact h.congr (s.movedHw_ctrl_fields m) fun c => by cases c <;> rfl
  · exact absurd ⟨turns, hsched⟩ hconstruct
  · exact heff.controlCoherent h

/-! ## The period registers -/

theorem State.settled_of_poll (h : s.phase = .poll d k r) :
    s.settled c = if d = c then (s.chan c).restore r else s.chan c := by
  rw [settled, h]

theorem State.settled_of_periodWrite (h : s.phase = .periodWrite d r) :
    s.settled c = if d = c then (s.chan c).restore r else s.chan c := by
  rw [settled, h]

/-- Outside a period command there is no count to take back. -/
theorem State.settled_of_idle (h : s.phase = .idle) : s.settled c = s.chan c := by
  rw [settled, h]

theorem State.settled_of_snapshot {p : SnapshotReads} (h : s.phase = .snapshot p) : s.settled c = s.chan c := by
  rw [settled, h]

theorem State.Accepts.settled (hacc : s.Accepts w rest) : s.settled c = s.chan c := by
  rcases hacc with ⟨hphase, -⟩ | ⟨hphase, -⟩ <;> rw [State.settled, hphase]

/-- After a poll the count of the polling channel is the one to take back, whatever the poll showed. -/
theorem State.settled_polled : (s.polled d k r).settled c = if d = c then (s.chan c).restore r else s.chan c := by
  cases hbusy : s.hw.busy d
  · rw [settled_of_periodWrite (d := d) (r := r) (by simp [hbusy]), polled_chan]
  · rw [settled_of_poll (d := d) (k := k + 1) (r := r) (by simp [hbusy]), polled_chan]

/-- Coherence depends only on the register and on the settled counts. -/
theorem State.PeriodCoherent.congr (h : s.PeriodCoherent c) (hperiod : t.hw.period c = s.hw.period c)
    (hactive : (t.settled c).activeCycles = (s.settled c).activeCycles)
    (htotal : (t.settled c).totalCycles = (s.settled c).totalCycles) : t.PeriodCoherent c := by
  rw [PeriodCoherent, hperiod, hactive, htotal]
  exact h

theorem BlockEffect.periodCoherent (heff : BlockEffect s t) (h : s.PeriodCoherent c) : t.PeriodCoherent c := by
  have keeps (hperiod : t.hw.period c = s.hw.period c) (hsettled : t.settled c = s.settled c) : t.PeriodCoherent c :=
    h.congr hperiod (hsettled ▸ rfl) (hsettled ▸ rfl)
  cases heff with
  | waits => exact h
  | returns hacc =>
    refine keeps rfl ?_
    rw [State.settled_of_idle rfl, hacc.settled]
    simp
  | @control w rest i d x hacc halive hw hi hx =>
    have hcounts : (((s.accept w rest).setChan d x).chan c).activeCycles = (s.chan c).activeCycles ∧
        (((s.accept w rest).setChan d x).chan c).totalCycles = (s.chan c).totalCycles := by
      by_cases hd : c = d
      · subst hd
        simp [hx.activeCycles, hx.totalCycles]
      · simp [State.setChan_chan_ne _ _ _ _ hd]
    refine h.congr (by simp) ?_ ?_
    · rw [State.settled_of_idle rfl, hacc.settled]
      simpa using hcounts.1
    · rw [State.settled_of_idle rfl, hacc.settled]
      simpa using hcounts.2
  | @starts w rest f d imm hacc =>
    refine keeps (by simp) ?_
    rw [State.settled_polled, hacc.settled]
    split
    · rename_i hd
      subst hd
      simp
    · rename_i hd
      rw [State.setChan_chan_ne _ _ _ _ (Ne.symm hd), State.accept_chan]
  | snapshot hacc =>
    refine keeps rfl ?_
    rw [hacc.settled]
    exact State.settled_of_snapshot rfl
  | shutdown hacc =>
    have hcounts : (s.settled c).activeCycles = ((s.chan c).setEnabled false).activeCycles ∧
        (s.settled c).totalCycles = ((s.chan c).setEnabled false).totalCycles := by
      rw [hacc.settled]
      exact ⟨rfl, rfl⟩
    refine h.congr (by simp) ?_ ?_
    · rw [State.settled_of_idle rfl, hcounts.1]
      cases c <;> rfl
    · rw [State.settled_of_idle rfl, hcounts.2]
      cases c <;> rfl
  | @timeout d k r hphase =>
    refine keeps (by simp) ?_
    rw [State.settled_of_idle rfl, State.settled_of_poll hphase, State.finish_chan]
    split
    · rename_i hd
      subst hd
      simp
    · rename_i hd
      rw [State.setChan_chan_ne _ _ _ _ (Ne.symm hd)]
  | polls hphase =>
    refine keeps rfl ?_
    rw [State.settled_polled, State.settled_of_poll hphase]
  | @writes d r hphase =>
    by_cases hd : c = d
    · subst hd
      rw [State.PeriodCoherent, State.settled_of_idle rfl]
      simp
    · refine keeps (by simp [Peripheral.storePeriod_period_ne _ _ _ _ hd]) ?_
      rw [State.settled_of_idle rfl, State.settled_of_periodWrite hphase, if_neg (Ne.symm hd)]
      simp
  | snapshotReads hphase =>
    refine keeps rfl ?_
    rw [State.settled_of_snapshot hphase]
    exact State.settled_of_snapshot rfl
  | snapshotEnds hphase =>
    refine keeps rfl ?_
    rw [State.settled_of_idle rfl, State.settled_of_snapshot hphase]
    simp

/-- Settles O54: the peripheral's own moves keep the period registers (`State.movedHw_period`) and no record; a turn of the block
keeps the settled counts, or writes the counts it settles on (`BlockEffect.periodCoherent`). -/
theorem stepKeepsPeriodCoherence : Obligations.StepKeepsPeriodCoherence := by
  unfold Obligations.StepKeepsPeriodCoherence
  intro s t c h hconstruct hstep
  rcases step_effects hstep with ⟨m, turns, -, rfl⟩ | ⟨turns, hsched, -⟩ | ⟨turns, -, heff⟩
  · exact h.congr (s.movedHw_period m c).1 rfl rfl
  · exact absurd ⟨turns, hsched⟩ hconstruct
  · exact heff.periodCoherent h

end Sys2Proof.Machine
end

section
/-! What every step does to the host's list, the index, the results, `alive` and the parameters (10_state.md R17; 44_controller.md
R110; 60_exceptions.md R130 to R136). -/

namespace Sys2Proof.Machine

variable {s t : State} {i : Instr} {c d : Chan} {k : Nat} {r : Rollback} {a : Completion} {w : Word} {rest : List Word}

/-- Settles O52: no turn of the outside world touches the parameters, and a turn of the block keeps them (`blockStep_keeps`). -/
theorem stepKeepsParameters : Obligations.StepKeepsParameters := by
  unfold Obligations.StepKeepsParameters
  intro s t h
  obtain ⟨-, ⟨m, turns, -, rfl⟩ | ⟨turns, -, rfl⟩ | ⟨turns, -, hblock⟩⟩ := step_cases h
  · rfl
  · rfl
  · exact (blockStep_keeps hblock).1

/-! ## The host's list -/

/-- A word that is carried out comes off the list now, or came off it before. -/
theorem State.Accepts.cmds (hacc : s.Accepts w rest) : rest = s.cmds ∨ (s.phase = .idle ∧ ∃ w, s.cmds = w :: rest) :=
  hacc.elim (fun h => .inr ⟨h.1, w, h.2⟩) fun h => .inl h.2.symm

/-- A turn of the block leaves the list alone or, when idle, takes its first word (R42). -/
theorem BlockEffect.cmds (heff : BlockEffect s t) : t.cmds = s.cmds ∨ (s.phase = .idle ∧ ∃ w, s.cmds = w :: t.cmds) := by
  cases heff with
  | returns hacc | snapshot hacc | shutdown hacc => exact hacc.cmds
  | control hacc | starts hacc => simpa using hacc.cmds
  | timeout => exact .inl (by simp)
  | waits | polls | writes | snapshotReads | snapshotEnds => exact .inl rfl

/-- Settles O28: only a turn of the block touches the list, as `BlockEffect.cmds` says. -/
theorem commandsAreServedInOrderOneAtATime : Obligations.CommandsAreServedInOrderOneAtATime := by
  unfold Obligations.CommandsAreServedInOrderOneAtATime
  intro s t h
  rcases step_effects h with ⟨m, turns, -, rfl⟩ | ⟨turns, -, rfl⟩ | ⟨turns, hturn, heff⟩
  · exact .inl rfl
  · exact .inl rfl
  · exact heff.cmds.imp_right fun ⟨hphase, hw⟩ => ⟨hphase, ⟨turns, hturn⟩, hw⟩

/-! ## The index and the results -/

/-- A turn of the block returns one result and advances the index by one, or neither (R17). -/
theorem BlockEffect.index (heff : BlockEffect s t) :
    (t.index = s.index ∧ t.results = s.results) ∨
      (t.index = s.index + 1 ∧ t.phase = .idle ∧ ∃ a, t.results = s.results ++ [a]) := by
  cases heff with
  | waits | snapshot | polls | snapshotReads => exact .inl ⟨rfl, rfl⟩
  | starts => exact .inl (by simp)
  | returns | shutdown | writes | snapshotEnds => exact .inr ⟨rfl, rfl, _, rfl⟩
  | control | timeout => exact .inr (by simp)

/-- On the block's turn nothing is constructed. -/
theorem State.BlocksTurn.not_constructsNext {turns : List Turn} (h : s.BlocksTurn turns) : ¬s.ConstructsNext := by
  rintro ⟨rest, hsched⟩
  rcases h with ⟨hempty, -⟩ | hblock
  · simp [hsched] at hempty
  · simp [hsched] at hblock

/-- Settles O29: a construction resets the index and keeps the results, a turn of the peripheral keeps both, and a turn of the block
moves them together (`BlockEffect.index`). -/
theorem indexAdvancesWithEachResult : Obligations.IndexAdvancesWithEachResult := by
  unfold Obligations.IndexAdvancesWithEachResult
  intro s t h
  rcases step_effects h with ⟨m, turns, hsched, rfl⟩ | ⟨turns, hsched, rfl⟩ | ⟨turns, hturn, heff⟩
  · refine .inr (.inl ⟨?_, rfl, rfl⟩)
    rintro ⟨rest, hconstruct⟩
    simp [hsched] at hconstruct
  · exact .inl ⟨⟨turns, hsched⟩, rfl, rfl⟩
  · have hnot := hturn.not_constructsNext
    exact .inr (heff.index.imp (fun h => ⟨hnot, h⟩) fun h => ⟨hnot, h⟩)

/-! ## `alive` -/

/-- A turn of the block keeps `alive`, or ends it as it carries out a SHUTDOWN (R124). -/
theorem BlockEffect.alive (heff : BlockEffect s t) :
    t.alive = s.alive ∨ (t.alive = false ∧ ∃ w, decode w = .ok .shutdown ∧ s.CarriesOut t w) := by
  cases heff with
  | shutdown hacc halive hw => exact .inr ⟨rfl, _, hw, hacc.carriesOut rfl⟩
  | control | starts | timeout => exact .inl (by simp)
  | waits | returns | snapshot | polls | writes | snapshotReads | snapshotEnds => exact .inl rfl

/-- Settles O43: a turn of the peripheral keeps `alive`, a construction sets it, a turn of the block is `BlockEffect.alive`. -/
theorem aliveEndsOnlyByShutdown : Obligations.AliveEndsOnlyByShutdown := by
  unfold Obligations.AliveEndsOnlyByShutdown
  intro s t h
  rcases step_effects h with ⟨m, turns, -, rfl⟩ | ⟨turns, hsched, rfl⟩ | ⟨turns, -, heff⟩
  · exact ⟨fun h0 h1 => by simp [h0] at h1, fun h0 h1 => by simp [h0] at h1⟩
  · exact ⟨fun _ h1 => by simp at h1, fun _ _ => ⟨turns, hsched⟩⟩
  · rcases heff.alive with hsame | ⟨hfalse, hshutdown⟩
    · exact ⟨fun h0 h1 => by simp_all, fun h0 h1 => by simp_all⟩
    · exact ⟨fun _ _ => hshutdown, fun _ h1 => by simp [hfalse] at h1⟩

/-! ## Errors -/

/-- A step that returns a result is one of the effects of a turn of the block. -/
theorem blockEffect_of_result (h : step s = .next t) (hr : t.results = s.results ++ [a]) :
    ∃ turns, s.BlocksTurn turns ∧ BlockEffect { s with sched := turns } t := by
  rcases step_effects h with ⟨m, turns, -, rfl⟩ | ⟨turns, -, rfl⟩ | hblock
  · simp at hr
  · simp at hr
  · exact hblock

/-- A turn of the block that returns an error has no other effect than to take an unfinished count back (R136). -/
theorem BlockEffect.failure (heff : BlockEffect s t) (hr : t.results = s.results ++ [a]) (herror : a.status ≠ .ok) :
    (∀ c, t.chan c = s.settled c) ∧ t.alive = s.alive ∧ t.hw = s.hw ∧ t.portLog = s.portLog ∧ t.phase = .idle ∧
      a.value = .unit := by
  cases heff with
  | waits | snapshot | polls | snapshotReads => simp at hr
  | starts => simp at hr
  | @returns w rest b hacc halive hb =>
    obtain rfl : a = b := State.finish_result_eq hr rfl
    refine ⟨fun c => ?_, rfl, rfl, rfl, rfl, ?_⟩
    · rw [State.finish_chan, State.accept_chan, hacc.settled]
    · cases hb with
      | illegal => rfl
      | decoded hi ha =>
        cases ha with
        | invalidRange | parseError => rfl
        | value => exact absurd rfl herror
  | @timeout d k r hphase =>
    obtain rfl := State.finish_result_eq hr (by simp)
    refine ⟨fun c => ?_, by simp, by simp, by simp, rfl, rfl⟩
    rw [State.finish_chan, State.settled_of_poll hphase]
    split
    · rename_i hd
      rw [hd, State.setChan_chan]
    · rename_i hd
      exact State.setChan_chan_ne _ _ _ _ (Ne.symm hd)
  | control => exact absurd (State.finish_result_eq hr (by simp) ▸ rfl) herror
  | shutdown => exact absurd (State.finish_result_eq hr rfl ▸ rfl) herror
  | writes => exact absurd (State.finish_result_eq hr rfl ▸ rfl) herror
  | snapshotEnds => exact absurd (State.finish_result_eq hr rfl ▸ rfl) herror

/-- Settles O49: only a turn of the block returns a result (`blockEffect_of_result`), and `BlockEffect.failure` says what one with an error
leaves. -/
theorem failedCommandHasNoEffect : Obligations.FailedCommandHasNoEffect := by
  unfold Obligations.FailedCommandHasNoEffect
  intro s t a h hr herror
  obtain ⟨turns, -, heff⟩ := blockEffect_of_result h hr
  exact heff.failure hr herror

/-- The origins of a result of a turn of the block: a word it answers at once, the bound of a poll, or success (R105, R110). -/
theorem BlockEffect.result (heff : BlockEffect s t) (hr : t.results = s.results ++ [a]) :
    (∃ w, s.CarriesOut t w ∧ WordReturnsOnly w a) ∨
      (∃ c k r, s.phase = .poll c k r ∧ s.params.pollLimit = some k ∧ a = ⟨.hardwareTimeout, .unit, .channel c⟩) ∨
      a.status = .ok := by
  cases heff with
  | waits | snapshot | polls | snapshotReads => simp at hr
  | starts => simp at hr
  | returns hacc halive hb =>
    obtain rfl := State.finish_result_eq hr rfl
    exact .inl ⟨_, hacc.carriesOut rfl, hb⟩
  | timeout hphase hlimit =>
    exact .inr (.inl ⟨_, _, _, hphase, hlimit, State.finish_result_eq hr (by simp)⟩)
  | control => exact .inr (.inr (State.finish_result_eq hr (by simp) ▸ rfl))
  | shutdown => exact .inr (.inr (State.finish_result_eq hr rfl ▸ rfl))
  | writes => exact .inr (.inr (State.finish_result_eq hr rfl ▸ rfl))
  | snapshotEnds => exact .inr (.inr (State.finish_result_eq hr rfl ▸ rfl))

/-- The origins of a result of a command: it answers at once, succeeds, or (not from a state the step allows) times out at its
first poll. -/
theorem ExecEffect.result (heff : ExecEffect s i t) (hr : t.results = s.results ++ [a]) :
    ReturnsOnly i a ∨ a = ⟨.ok, .unit, .nothing⟩ ∨ a.status = .hardwareTimeout := by
  cases heff with
  | returns ha =>
    obtain rfl := State.finish_result_eq hr rfl
    exact .inl ha
  | control => exact .inr (.inl (State.finish_result_eq hr (by simp)))
  | polls h => exact .inr (.inr ((pollOnce_result h (by simpa using hr)).2 ▸ rfl))
  | snapshot => simp at hr
  | shutdown => exact .inr (.inl (State.finish_result_eq hr rfl))

/-- A command with a cause of ParseError returns it and nothing else (R131). -/
theorem exec_of_parseErrorCause (hi : ParseErrorCause i) (s : State) :
    ∃ info, exec i s = .next (s.finish ⟨.parseError, .unit, info⟩) := by
  obtain ⟨c, imm, rfl | rfl, hbyte⟩ := hi
  · exact ⟨_, execPol_rejects s c imm hbyte⟩
  · exact ⟨_, execPresc_notAByte s c imm hbyte⟩

/-- The phase after a poll of channel `d` is that channel's, whatever the poll showed. -/
theorem State.polled_inPeriodCommand (h : (s.polled d k r).phase.InPeriodCommand c) : d = c := by
  rw [polled_phase] at h
  rcases h with ⟨k', r', h⟩ | ⟨r', h⟩ <;> split at h <;> cases h <;> rfl

theorem Phase.not_inPeriodCommand_idle : ¬Phase.idle.InPeriodCommand c := by
  rintro (⟨k, r, h⟩ | ⟨r, h⟩) <;> cases h

theorem Phase.not_inPeriodCommand_snapshot {p : SnapshotReads} : ¬(Phase.snapshot p).InPeriodCommand c := by
  rintro (⟨k, r, h⟩ | ⟨r, h⟩) <;> cases h

/-- The block is in a period command because it starts one or goes on with it (R105, R114, R115). -/
theorem BlockEffect.inPeriodCommand (heff : BlockEffect s t) (h : t.phase.InPeriodCommand c) :
    s.phase.InPeriodCommand c ∨ ∃ f w imm, s.CarriesOut t w ∧ decode w = .ok (CycleField.command f c imm) := by
  cases heff with
  | waits => exact .inl h
  | starts hacc halive hw =>
    obtain rfl := State.polled_inPeriodCommand h
    exact .inr ⟨_, _, _, hacc.carriesOut (by simp), hw⟩
  | polls hphase =>
    obtain rfl := State.polled_inPeriodCommand h
    exact .inl (.inl ⟨_, _, hphase⟩)
  | snapshot | snapshotReads => exact absurd h Phase.not_inPeriodCommand_snapshot
  | returns | control | shutdown | timeout | writes | snapshotEnds => exact absurd h Phase.not_inPeriodCommand_idle

theorem ReturnsOnly.status_ne_illegalCommand (h : ReturnsOnly i a) : a.status ≠ .illegalCommand := by
  cases h <;> simp

theorem ReturnsOnly.status_ne_hardwareTimeout (h : ReturnsOnly i a) : a.status ≠ .hardwareTimeout := by
  cases h <;> simp

theorem WordReturnsOnly.status_ne_hardwareTimeout (h : WordReturnsOnly w a) : a.status ≠ .hardwareTimeout := by
  cases h with
  | illegal => simp
  | decoded hi ha => exact ha.status_ne_hardwareTimeout

/-- The decode that goes with the status of a word answered at once: an illegal word has IllegalCommand, and only it. -/
theorem WordReturnsOnly.decode_of_status (h : WordReturnsOnly w a) :
    (a.status = .illegalCommand → ∃ e, decode w = .error e) ∧ (a.status ≠ .illegalCommand → ∃ i, decode w = .ok i) := by
  cases h with
  | illegal he => exact ⟨fun _ => ⟨_, he⟩, fun h => absurd rfl h⟩
  | decoded hi ha => exact ⟨fun h => absurd h ha.status_ne_illegalCommand, fun _ => ⟨_, hi⟩⟩

/-- Settles O37: the results of a command are those of `ExecEffect.result`, of a step those of `BlockEffect.result`; that the bound
always ends a poll with HardwareTimeout is `pollOnce_timeout`; the period commands are `BlockEffect.inPeriodCommand`. -/
theorem otherErrorCauses : Obligations.OtherErrorCauses := by
  unfold Obligations.OtherErrorCauses
  refine ⟨fun i s t a h hr => ?command, fun s t a h hr => ?step, fun s t c h hphase => ?phase⟩
  case command =>
    refine ⟨⟨fun hstatus => ?_, fun hi => ?_⟩, fun hstatus => ?_⟩
    · rcases (execEffect_of_exec h).result hr with ha | rfl | htimeout
      · cases ha with
        | parseError hi => exact hi
        | invalidRange | value => cases hstatus
      · cases hstatus
      · cases hstatus.symm.trans htimeout
    · obtain ⟨info, he⟩ := exec_of_parseErrorCause hi s
      obtain rfl := next_inj (he.symm.trans h)
      rw [State.finish_result_eq hr rfl]
    · rcases (execEffect_of_exec h).result hr with ha | rfl | htimeout
      · exact ha.status_ne_illegalCommand hstatus
      · cases hstatus
      · cases hstatus.symm.trans htimeout
  case step =>
    obtain ⟨turns, hturn, heff⟩ := blockEffect_of_result h hr
    refine ⟨fun hstatus => ?_, fun hstatus => ?_, fun hstatus => ?_, ?_⟩
    · rcases heff.result hr with ⟨w, hw, ha⟩ | ⟨c, k, r, -, -, rfl⟩ | hok
      · obtain ⟨i, hi⟩ := ha.decode_of_status.2 (by simp [hstatus])
        exact ⟨w, i, hw, hi⟩
      · cases hstatus
      · cases hstatus.symm.trans hok
    · rcases heff.result hr with ⟨w, hw, ha⟩ | ⟨c, k, r, -, -, rfl⟩ | hok
      · obtain ⟨e, he⟩ := ha.decode_of_status.1 hstatus
        exact ⟨w, e, hw, he⟩
      · cases hstatus
      · cases hstatus.symm.trans hok
    · rcases heff.result hr with ⟨w, -, ha⟩ | ⟨c, k, r, hphase, hlimit, -⟩ | hok
      · exact absurd hstatus ha.status_ne_hardwareTimeout
      · exact ⟨c, k, r, turns, hturn, hphase, hlimit⟩
      · cases hstatus.symm.trans hok
    · rintro ⟨c, k, r, turns', hturn', hphase, hlimit⟩
      rw [step_block (step_cases h).1 hturn'] at h
      simp only [blockStep, hphase] at h
      rw [pollOnce_timeout (by exact hlimit)] at h
      obtain rfl := next_inj h
      rw [State.finish_result_eq hr (by simp)]
  case phase =>
    rcases step_effects h with ⟨m, turns, -, rfl⟩ | ⟨turns, -, rfl⟩ | ⟨turns, -, heff⟩
    · exact .inl hphase
    · exact absurd hphase Phase.not_inPeriodCommand_idle
    · refine (heff.inPeriodCommand hphase).imp_right fun ⟨f, w, imm, hw, hdecode⟩ => ⟨w, imm, hw, ?_⟩
      cases f
      · exact .inl hdecode
      · exact .inr hdecode

/-! ## A successful write makes the registers agree -/

/-- A turn of the block that returns OK and no value has written a register as the mirror says (R125, R126). -/
theorem BlockEffect.success (heff : BlockEffect s t) (hr : t.results = s.results ++ [⟨.ok, .unit, .nothing⟩]) :
    (t.ControlCoherent ∧ ∃ w i, s.CarriesOut t w ∧ decode w = .ok i ∧ (IsControlCommand i ∨ i = .shutdown)) ∨
      ∃ c r, s.phase = .periodWrite c r ∧ t.PeriodCoherent c := by
  cases heff with
  | waits | snapshot | polls | snapshotReads => simp at hr
  | starts => simp at hr
  | returns hacc halive ha =>
    obtain rfl := State.finish_result_eq hr rfl
    cases ha with
    | decoded hi ha =>
      cases ha with
      | value hv => exact absurd rfl hv
  | control hacc halive hw hi =>
    exact .inl ⟨State.ctrlWrite_controlCoherent _, _, _, hacc.carriesOut (by simp), hw, .inl hi⟩
  | shutdown hacc halive hw =>
    exact .inl ⟨State.ctrlWrite_controlCoherent _, _, _, hacc.carriesOut rfl, hw, .inr rfl⟩
  | timeout => cases State.finish_result_eq hr (by simp)
  | @writes c r hphase =>
    refine .inr ⟨c, r, hphase, ?_⟩
    rw [State.PeriodCoherent, State.settled_of_idle rfl]
    simp
  | snapshotEnds => cases State.finish_result_eq hr rfl

/-- Settles O55: the only results OK without a value are those of a control write and of a period write, and each write stores the
image of the mirror. -/
theorem successfulWriteMakesCoherent : Obligations.SuccessfulWriteMakesCoherent := by
  unfold Obligations.SuccessfulWriteMakesCoherent
  intro s t h hr
  obtain ⟨turns, -, heff⟩ := blockEffect_of_result h hr
  exact heff.success hr

end Sys2Proof.Machine
end

section
/-! The PORT transactions of a step (20_memory.md R31 to R41; 43_period_protocol.md R102). -/

namespace Sys2Proof.Machine

variable {s t : State} {p : Params} {c d : Chan}

/-! ## The parameters the spec allows -/

/-- Settles O24: `wellFormed` reads off the four addresses and the bound; distinctness is `Nodup` of four elements and "multiple of
4" is a remainder of 0. -/
theorem allowedParameters : Obligations.AllowedParameters := by
  unfold Obligations.AllowedParameters
  intro p
  have hlimit : p.pollLimit ≠ some 0 ↔ ∀ n, p.pollLimit = some n → 1 ≤ n := by
    cases p.pollLimit <;> simp [Nat.one_le_iff_ne_zero]
  simp only [Params.wellFormed, Params.addrs, Bool.and_eq_true, decide_eq_true_eq, List.all_cons, List.all_nil, bne_iff_ne,
    beq_iff_eq, hlimit, List.nodup_cons, List.mem_cons, List.not_mem_nil, Nat.dvd_iff_mod_eq_zero, not_or]
  tauto

/-- The four addresses the spec allows are pairwise distinct (R3). -/
theorem Params.addrs_ne (h : p.wellFormed = true) :
    p.ctrlAddr ≠ p.pinmuxAddr ∧
      ∀ c, p.periodAddr c ≠ p.ctrlAddr ∧ p.periodAddr c ≠ p.pinmuxAddr ∧ ∀ d, p.periodAddr c = p.periodAddr d → c = d := by
  obtain ⟨h01, h02, h03, h12, h13, h23, -⟩ := (allowedParameters p).mp h
  have hinj (c d : Chan) (hd : p.periodAddr c = p.periodAddr d) : c = d := by
    cases c <;> cases d
    · rfl
    · exact absurd hd h12
    · exact absurd hd.symm h12
    · rfl
  refine ⟨h03, fun c => ?_⟩
  cases c
  · exact ⟨Ne.symm h01, h13, hinj .ch0⟩
  · exact ⟨Ne.symm h02, h23, hinj .ch1⟩

theorem Params.ctrlAddr_mem (p : Params) : p.ctrlAddr ∈ p.addrs := by simp [addrs]

theorem Params.periodAddr_mem (p : Params) (c : Chan) : p.periodAddr c ∈ p.addrs := by
  cases c <;> simp [addrs, periodAddr]

theorem SnapshotReads.nextTx_eq_read (q : SnapshotReads) (s : State) :
    ∃ a v, a ∈ s.params.addrs ∧ q.nextTx s = .read a v := by
  cases q <;> exact ⟨_, _, by simp [Params.addrs], rfl⟩

/-! ## One transaction a step -/

/-- The PORT transaction of a turn of the block from `s` to `t`, and what it leaves of the peripheral (R31, R37 to R41). -/
inductive PortEffect (s t : State) : List PortTx → Prop
  | none (hhw : t.hw = s.hw) : PortEffect s t []
  | read {a : Nat} {v : Word} (ha : a ∈ s.params.addrs) (hhw : t.hw = s.hw) : PortEffect s t [.read a v]
  | ctrlWrite {v : Word} (hhw : t.hw = s.hw.storeCtrl v) : PortEffect s t [.write s.params.ctrlAddr v]
  | periodWrite {c : Chan} {r : Rollback} {v : Word} (hphase : s.phase = .periodWrite c r) (hready : s.hw.busy c = false)
      (hv : v = periodPack (s.chan c).activeCycles (s.chan c).totalCycles) (hhw : t.hw = s.hw.storePeriod c v)
      (hidle : t.phase = .idle) : PortEffect s t [.write (s.params.periodAddr c) v]

/-- A turn of the block makes at most one transaction, and a period write only in the phase that is for it (R41, R102). -/
theorem BlockEffect.port (heff : BlockEffect s t) : ∃ txs, t.portLog = s.portLog ++ txs ∧ PortEffect s t txs := by
  cases heff with
  | waits | returns => exact ⟨[], (List.append_nil _).symm, .none rfl⟩
  | timeout => exact ⟨[], by simp, .none (by simp)⟩
  | control => exact ⟨_, by simp; rfl, .ctrlWrite (by simp)⟩
  | shutdown => exact ⟨_, rfl, .ctrlWrite rfl⟩
  | starts => exact ⟨_, by simp; rfl, .read s.params.ctrlAddr_mem (by simp)⟩
  | snapshot | polls => exact ⟨_, rfl, .read s.params.ctrlAddr_mem rfl⟩
  | writes hphase hready => exact ⟨_, rfl, .periodWrite hphase hready rfl rfl rfl⟩
  | @snapshotReads q =>
    obtain ⟨a, v, ha, htx⟩ := q.nextTx_eq_read s
    exact ⟨[q.nextTx s], rfl, htx ▸ .read ha rfl⟩
  | @snapshotEnds q =>
    obtain ⟨a, v, ha, htx⟩ := q.nextTx_eq_read s
    exact ⟨[q.nextTx s], rfl, htx ▸ .read ha rfl⟩

/-- A write at the address of a period register is received by that register (R31, R39). -/
theorem Peripheral.receive_periodWrite (h : p.wellFormed = true) (hw : Peripheral) (c : Chan) (v : Word) :
    hw.receive p (.write (p.periodAddr c) v) = hw.storePeriod c v := by
  obtain ⟨-, hperiod⟩ := Params.addrs_ne h
  have hctrl := (hperiod c).1
  cases c
  · simp [receive, hctrl]
  · have hother : p.periodAddr .ch1 ≠ p.periodAddr .ch0 := fun he => by cases (hperiod .ch1).2.2 _ he
    simp [receive, hctrl, hother]

/-- Settles O19: the transactions of a turn of the block are those of `BlockEffect.port`, and in each case the peripheral afterwards is
what receiving them makes of it. -/
theorem peripheralReceivesExactlyTheLog : Obligations.PeripheralReceivesExactlyTheLog := by
  unfold Obligations.PeripheralReceivesExactlyTheLog
  intro s t turns hturn h
  have hparams := (step_cases h).1
  obtain ⟨hpinmux, hperiod⟩ := Params.addrs_ne hparams
  obtain ⟨txs, hlog, hport⟩ := (blockEffect_of_step hturn h).port
  refine ⟨txs, by cases hport <;> simp, hlog, ?_⟩
  cases hport with
  | none hhw => exact ⟨hhw, by simp⟩
  | read ha hhw => exact ⟨hhw, by simpa [PortTx.addr, PortTx.isWrite] using ha⟩
  | ctrlWrite hhw =>
    refine ⟨by simpa [Peripheral.receive] using hhw, ?_⟩
    simpa [PortTx.addr, PortTx.isWrite, Params.ctrlAddr_mem] using hpinmux
  | @periodWrite c r v hphase hready hv hhw =>
    refine ⟨hhw.trans (Peripheral.receive_periodWrite hparams _ _ _).symm, ?_⟩
    simpa [PortTx.addr, PortTx.isWrite, Params.periodAddr_mem] using (hperiod c).2.1

/-- The read that a sound state in the phase before a period write has just made (R102). -/
theorem State.Sound.sawReady {r : Rollback} (h : s.Sound) (hphase : s.phase = .periodWrite c r) :
    s.hw.busy c = false ∧ s.SawReady c := by
  have hsound := h.phase
  rwa [PhaseSound, hphase] at hsound

/-- Settles O45: of the transactions of `BlockEffect.port` only the period write is at the address of a period register, the
addresses being distinct; the read before it is what a sound state in that phase has just made. -/
theorem periodWriteOnlyWhenReady : Obligations.PeriodWriteOnlyWhenReady := by
  unfold Obligations.PeriodWriteOnlyWhenReady
  intro s t c txs v h hlog hmem
  obtain ⟨-, hperiod⟩ := Params.addrs_ne (step_cases h).1
  rcases step_effects h with ⟨m, turns, -, rfl⟩ | ⟨turns, -, rfl⟩ | ⟨turns, -, heff⟩
  · simp_all
  · simp_all
  obtain ⟨txs', hlog', hport⟩ := heff.port
  obtain rfl : txs = txs' := List.append_cancel_left (hlog.symm.trans hlog')
  cases hport with
  | none => simp at hmem
  | read => simp at hmem
  | ctrlWrite => exact absurd (congrArg PortTx.addr (List.mem_singleton.mp hmem)) (hperiod c).1
  | @periodWrite d r v' hphase hready hv hhw hidle =>
    have htx := List.mem_singleton.mp hmem
    obtain rfl : c = d := (hperiod c).2.2 d (congrArg PortTx.addr htx)
    obtain rfl : v = v' := by simpa using htx
    refine ⟨hready, ⟨r, hphase⟩, rfl, hv, hidle, fun hsound => ?_⟩
    exact (hsound.sawReady hphase).2

end Sys2Proof.Machine
end

section
/-! Whose turn it is, and which steps are refused (10_state.md R16; 44_controller.md R110; 70_reset_and_hazards.md R150). -/

namespace Sys2Proof.Machine

variable {s : State} {i : Instr} {c : Chan} {w : Word} {rest : List Word} {turns : List Turn}

/-! ## Construction and waiting -/

/-- Settles O20: the reset table is the definition of `State.launch`, field by field. -/
theorem launchStateIsAsTheResetTable : Obligations.LaunchStateIsAsTheResetTable := by
  unfold Obligations.LaunchStateIsAsTheResetTable
  intro p hw
  exact ⟨rfl, rfl, rfl, rfl, rfl, rfl, rfl⟩

/-- On the host's turn, a step is the construction (R150). -/
theorem step_construct (hp : s.params.wellFormed = true) (hs : s.sched = .construct :: turns) :
    step s = .next { s with sched := turns }.construct := by
  simp only [step, hp, turnStep, hs]
  rfl

/-- Settles O21: the step is `step_construct`, and the reset records are those of the table. -/
theorem constructionResetsTheBlockOnly : Obligations.ConstructionResetsTheBlockOnly := by
  unfold Obligations.ConstructionResetsTheBlockOnly
  intro s turns hp hs
  exact step_construct hp hs

/-- With nothing to accept, an idle block's step changes nothing (R150). -/
theorem blockStep_waits (hphase : s.phase = .idle) (hcmds : s.cmds = []) : blockStep s = .next s := by
  rw [blockStep, hphase, hcmds]

/-- Settles O22: `blockStep_waits` on the block's turn. -/
theorem idleBlockWaits : Obligations.IdleBlockWaits := by
  unfold Obligations.IdleBlockWaits
  intro s turns hp hturn hphase hcmds
  rw [step_block hp hturn]
  exact blockStep_waits hphase hcmds

/-! ## Carrying out a word -/

/-- The block's step carries out the word it accepts, or has accepted (R16). -/
theorem blockStep_accepts (hacc : s.Accepts w rest) : blockStep s = carryOut w (s.accept w rest) := by
  rcases hacc with ⟨hphase, hcmds⟩ | ⟨hphase, rfl⟩
  · rw [blockStep, hphase, hcmds]
  · have hsame : s.accept w s.cmds = s := by rw [State.accept, ← hphase]
    rw [blockStep, hphase, hsame]

theorem carryOut_decodes (halive : s.alive = true) (hw : decode w = .ok i) : carryOut w s = exec i s := by
  rw [carryOut, if_pos halive, hw]

theorem carryOut_illegal {e : IllegalReason} (halive : s.alive = true) (hw : decode w = .error e) :
    carryOut w s = .next (s.finish ⟨.illegalCommand, .unit, .word w⟩) := by
  rw [carryOut, if_pos halive, hw]
  rfl

theorem carryOut_dead (halive : s.alive = false) : carryOut w s = .refused .commandAfterShutdown := by
  rw [carryOut, if_neg (by simp [halive])]

/-- A word next on CMD of an idle block is accepted in the block's next step (R110). -/
theorem step_fetches (hf : s.Fetches w rest) (hturn : s.BlocksTurn turns) :
    step s = carryOut w { s with cmds := rest, sched := turns, phase := .exec w } := by
  rw [step_block hf.params hturn]
  exact blockStep_accepts (.inl ⟨hf.phase, hf.cmds⟩)

/-- Settles O25: `step_fetches`, and the block is alive. -/
theorem stepRunsTheDecodedCommand : Obligations.StepRunsTheDecodedCommand := by
  unfold Obligations.StepRunsTheDecodedCommand
  intro s w i cmds turns hf hturn halive hw
  rw [step_fetches hf hturn]
  exact carryOut_decodes halive hw

/-- A word of 32 bits is presented as it is. -/
theorem State.withFetchWord_toNat (s : State) (w : Word) : s.withFetchWord 32 w.toNat = s.present w := by
  rw [withFetchWord, Nat.mod_eq_of_lt w.isLt, BitVec.ofNat_toNat, BitVec.setWidth_eq]

/-- Settles O26: a presented word is one that an idle, living block fetches on its turn. -/
theorem presentedWordRunsNext : Obligations.PresentedWordRunsNext := by
  unfold Obligations.PresentedWordRunsNext
  intro s w i hp hw
  rw [State.withFetchWord_toNat]
  exact stepRunsTheDecodedCommand (s.present w) w i s.cmds [] ⟨hp, rfl, rfl⟩ (.inl ⟨rfl, rfl⟩) rfl hw

/-- Settles O27: an illegal word ends at once (`carryOut_illegal`), and `finish` is all that happens. -/
theorem illegalWordOnlyReturnsIllegalCommand : Obligations.IllegalWordOnlyReturnsIllegalCommand := by
  unfold Obligations.IllegalWordOnlyReturnsIllegalCommand
  intro s w e cmds turns hf hturn halive hw
  refine ⟨_, (step_fetches hf hturn).trans (carryOut_illegal halive hw), ?_⟩
  exact ⟨⟨rfl, rfl, rfl, rfl, rfl⟩, rfl, rfl, rfl, rfl, rfl⟩

/-! ## The refusals -/

/-- A word is presented to the block, or accepted and not yet carried out. -/
theorem State.exists_accepts_iff :
    (∃ w rest, s.Accepts w rest) ↔ (s.phase = .idle ∧ s.cmds ≠ []) ∨ ∃ w, s.phase = .exec w := by
  constructor
  · rintro ⟨w, rest, ⟨hphase, hcmds⟩ | ⟨hphase, -⟩⟩
    · exact .inl ⟨hphase, by simp [hcmds]⟩
    · exact .inr ⟨w, hphase⟩
  · rintro (⟨hphase, hcmds⟩ | ⟨w, hphase⟩)
    · obtain ⟨w, rest, hlist⟩ := List.exists_cons_of_ne_nil hcmds
      exact ⟨w, rest, .inl ⟨hphase, hlist⟩⟩
    · exact ⟨w, s.cmds, .inr ⟨hphase, rfl⟩⟩

/-- A turn of the block answers a next state, unless it would carry out a word for a dead block or write the period of a busy
channel (R39, R110). -/
theorem blockStep_next (hdead : ∀ w rest, s.Accepts w rest → s.alive = true)
    (hbusy : ∀ c r, s.phase = .periodWrite c r → s.hw.busy c = false) : ∃ t, blockStep s = .next t := by
  have carried {w : Word} {rest : List Word} (hacc : s.Accepts w rest) : ∃ t, blockStep s = .next t := by
    have halive : (s.accept w rest).alive = true := hdead w rest hacc
    rw [blockStep_accepts hacc]
    cases hw : decode w with
    | ok i =>
      rw [carryOut_decodes halive hw]
      exact exec_next i _
    | error e => exact ⟨_, carryOut_illegal halive hw⟩
  cases hphase : s.phase with
  | idle =>
    cases hcmds : s.cmds with
    | nil => exact ⟨s, blockStep_waits hphase hcmds⟩
    | cons w rest => exact carried (.inl ⟨hphase, hcmds⟩)
  | exec w => exact carried (.inr ⟨hphase, rfl⟩)
  | poll c k r =>
    rw [blockStep, hphase]
    exact pollOnce_next c k r s
  | periodWrite c r =>
    rw [blockStep, hphase]
    exact ⟨_, periodWrite_ready (hbusy c r hphase)⟩
  | snapshot p =>
    rw [blockStep, hphase]
    rcases snapshotStep_cases p s with ⟨q, -, he⟩ | ⟨v, he⟩
    · exact ⟨_, he⟩
    · exact ⟨_, he⟩

theorem step_parametersOutsideSpec (h : s.params.wellFormed = false) : step s = .refused .parametersOutsideSpec := by
  rw [step, if_neg (by simp [h])]

theorem step_commandAfterShutdown (hp : s.params.wellFormed = true) (halive : s.alive = false) (hturn : s.BlocksTurn turns)
    (hacc : s.Accepts w rest) : step s = .refused .commandAfterShutdown := by
  have hacc' : State.Accepts { s with sched := turns } w rest := hacc
  rw [step_block hp hturn, blockStep_accepts hacc']
  exact carryOut_dead halive

theorem step_periodWriteWhileBusy {r : Rollback} (hp : s.params.wellFormed = true) (hturn : s.BlocksTurn turns)
    (hphase : s.phase = .periodWrite c r) (hbusy : s.hw.busy c = true) : step s = .refused .periodWriteWhileBusy := by
  rw [step_block hp hturn, blockStep]
  simp only [hphase]
  exact periodWrite_refused hbusy

/-- With parameters the spec allows, and outside the two other refusals, a step answers a next state: the outside world always
moves, and a turn of the block is `blockStep_next`. -/
theorem step_next (hp : s.params.wellFormed = true)
    (hdead : ∀ turns w rest, s.BlocksTurn turns → s.Accepts w rest → s.alive = true)
    (hbusy : ∀ turns c r, s.BlocksTurn turns → s.phase = .periodWrite c r → s.hw.busy c = false) :
    ∃ t, step s = .next t := by
  have block {turns : List Turn} (hturn : s.BlocksTurn turns) : ∃ t, step s = .next t := by
    rw [step_block hp hturn]
    exact blockStep_next (hdead turns · · hturn) (hbusy turns · · hturn)
  cases hs : s.sched with
  | nil => exact block (.inl ⟨hs, rfl⟩)
  | cons turn turns =>
    cases turn with
    | block => exact block (.inr hs)
    | peripheral m => exact ⟨_, step_peripheral hp hs⟩
    | construct => exact ⟨_, step_construct hp hs⟩

/-- Settles O23: each refusal is one of the three lemmas above, `step_next` is their complement, and a sound state whose period write
is next has a ready channel. -/
theorem stepIsRefusedInExactlyThreeCases : Obligations.StepIsRefusedInExactlyThreeCases := by
  unfold Obligations.StepIsRefusedInExactlyThreeCases
  simp only [← State.exists_accepts_iff]
  have total (s : State) (hp : s.params.wellFormed = true)
      (hdead : ¬(s.alive = false ∧ (∃ turns, s.BlocksTurn turns) ∧ ∃ w rest, s.Accepts w rest))
      (hbusy : ¬((∃ turns, s.BlocksTurn turns) ∧ ∃ c r, s.phase = .periodWrite c r ∧ s.hw.busy c = true)) :
      ∃ t, step s = .next t := by
    refine step_next hp (fun turns w rest hturn hacc => ?_) fun turns c r hturn hphase => ?_
    · by_contra halive
      exact hdead ⟨by simpa using halive, ⟨turns, hturn⟩, w, rest, hacc⟩
    · by_contra hset
      exact hbusy ⟨⟨turns, hturn⟩, c, r, hphase, by simpa using hset⟩
  refine ⟨fun s => ⟨step_parametersOutsideSpec, ?_, ?_, total s⟩, fun s hsound hrefused => ?_⟩
  · rintro hp halive ⟨turns, hturn⟩ ⟨w, rest, hacc⟩
    exact step_commandAfterShutdown hp halive hturn hacc
  · rintro hp ⟨turns, hturn⟩ ⟨c, r, hphase, hbusy⟩
    exact step_periodWriteWhileBusy hp hturn hphase hbusy
  · cases hp : s.params.wellFormed with
    | false => cases hrefused.symm.trans (step_parametersOutsideSpec hp)
    | true =>
      by_cases hdead : s.alive = false ∧ (∃ turns, s.BlocksTurn turns) ∧ ∃ w rest, s.Accepts w rest
      · obtain ⟨halive, ⟨turns, hturn⟩, w, rest, hacc⟩ := hdead
        cases hrefused.symm.trans (step_commandAfterShutdown hp halive hturn hacc)
      · obtain ⟨t, ht⟩ := total s hp hdead fun ⟨_, c, r, hphase, hbusy⟩ => by
          simp [(hsound.sawReady hphase).1] at hbusy
        cases hrefused.symm.trans ht

end Sys2Proof.Machine
end

section
/-! The commands of the controller, each with its frame (44_controller.md R112 to R115, R122 to R124). -/

namespace Sys2Proof.Machine

variable {s t : State} {i : Instr} {c d : Chan} {k : Nat} {r : Rollback} {w : Word} {rest : List Word} {turns : List Turn}

/-! ## The control-register commands -/

/-- Settles O31: `execPol_accepts` and `execPol_rejects` are the two sides of the type check, each with the frame of its shared
ending. -/
theorem polSetsPolarityAndRewritesTheRegister : Obligations.PolSetsPolarityAndRewritesTheRegister := by
  unfold Obligations.PolSetsPolarityAndRewritesTheRegister
  intro s c imm
  refine ⟨fun haccept => ?_, fun hreject => ?_⟩
  · exact ⟨_, execPol_accepts s c imm haccept, State.setChan_ctrlWrite_finish_effect rfl⟩
  · exact ⟨_, execPol_rejects s c imm hreject, s.finish_onlyReturns _⟩

/-- PRESC's code is the operand, cut down to its four bits (R56). -/
theorem prescCode_eq (imm : Half) : imm.extractLsb' 0 4 = BitVec.ofNat 4 imm.toNat := by
  apply BitVec.eq_of_toNat_eq
  simp

/-- Settles O32: the three ranges of the operand are `execPresc_accepts`, `execPresc_outOfRange` and `execPresc_notAByte`, each with
the frame of its shared ending. -/
theorem prescSetsCodeAndRewritesTheRegister : Obligations.PrescSetsCodeAndRewritesTheRegister := by
  unfold Obligations.PrescSetsCodeAndRewritesTheRegister
  intro s c imm
  refine ⟨fun hcode => ?_, fun hlow hbyte => ?_, fun hreject => ?_⟩
  · rw [← prescCode_eq]
    exact ⟨_, execPresc_accepts s c imm hcode, State.setChan_ctrlWrite_finish_effect rfl⟩
  · exact ⟨_, execPresc_outOfRange s c imm hlow hbyte, s.finish_onlyReturns _⟩
  · exact ⟨_, execPresc_notAByte s c imm hreject, s.finish_onlyReturns _⟩

/-- Settles O39: RD_FREQ is `complete` at the frequency of the record. -/
theorem rdFreqReturnsTheMirrorsFrequency : Obligations.RdFreqReturnsTheMirrorsFrequency := by
  unfold Obligations.RdFreqReturnsTheMirrorsFrequency
  intro s c
  exact complete_onlyReturns s (.frequency (outputFrequency (s.chan c).prescaleCode (s.chan c).totalCycles))

/-- Settles O40: PRESC stores the reserved code (`execPresc_accepts`), and a reserved code has no frequency. -/
theorem reservedCodeIsAcceptedThenUndefined : Obligations.ReservedCodeIsAcceptedThenUndefined := by
  unfold Obligations.ReservedCodeIsAcceptedThenUndefined
  intro s c imm himm
  have hreserved : imm.toNat ≤ 15 ∧ divisorOf (imm.extractLsb' 0 4) = .reserved := by
    simp only [List.mem_cons, List.not_mem_nil, or_false] at himm
    rcases himm with rfl | rfl | rfl | rfl | rfl <;> decide
  refine ⟨_, _, execPresc_accepts s c imm hreserved.1, complete_eq _ _, ?_⟩
  simp [outputFrequency_reserved hreserved.2]

/-- SHUTDOWN's records: both channels disabled with their resets (R124). -/
def State.disabled (s : State) : State := { s with ch0 := s.ch0.setEnabled false, ch1 := s.ch1.setEnabled false }

theorem execShutdown_eq (s : State) :
    exec .shutdown s = .next (State.finish { s.disabled.ctrlWrite with alive := false } ⟨.ok, .unit, .nothing⟩) := rfl

/-- The image of two disabled channels without pulse start and bypass (R124). -/
theorem pack_disabled (hplain : ∀ c, (s.chan c).pulseStart = false ∧ (s.chan c).bypass = false) :
    pack (s.ch0.setEnabled false) (s.ch1.setEnabled false) = 0x00310062#32 := by
  have hfields (x : ChannelState) (hx : x.pulseStart = false ∧ x.bypass = false) :
      (x.setEnabled false).fields = ⟨2#4, false, true, true, .continuous, false, false⟩ := by
    simp [ChannelState.fields, ChannelState.setEnabled, hx.1, hx.2]
    rfl
  rw [pack_eq_packFields, hfields s.ch0 (hplain .ch0), hfields s.ch1 (hplain .ch1)]
  decide

/-- Settles O42: `execShutdown_eq` field by field; the register stores the image as it is, and `pack_disabled` is its value. -/
theorem shutdownDisablesBothChannels : Obligations.ShutdownDisablesBothChannels := by
  unfold Obligations.ShutdownDisablesBothChannels
  intro s
  refine ⟨_, execShutdown_eq s, ⟨rfl, rfl, rfl, rfl, rfl⟩, rfl, fun c => by cases c <;> rfl, ?_, rfl, fun hplain => ?_⟩
  · exact Peripheral.storeCtrl_pack _ _ _
  · have hctrl := congrArg Peripheral.ctrl (s.hw.storeCtrl_pack (s.ch0.setEnabled false) (s.ch1.setEnabled false))
    exact hctrl.trans (pack_disabled hplain)

/-- Settles O58: POL and PRESC change different records, so their order does not matter to the records, and the last write is the
image of both. -/
theorem noUpdateIsLostInEitherOrder : Obligations.NoUpdateIsLostInEitherOrder := by
  unfold Obligations.NoUpdateIsLostInEitherOrder
  intro s c p q hp hq
  refine ⟨_, _, _, _, execPol_accepts _ _ _ hp, execPresc_accepts _ _ _ hq, execPresc_accepts _ _ _ hq,
    execPol_accepts _ _ _ hp, ?_⟩
  have hunpack (x y : ChannelState) : unpack (pack x y) = ⟨x.fields, y.fields, false, false⟩ :=
    unpackOfPackGivesTheFields x y
  rw [← prescCode_eq]
  cases c <;> simp [otherChan, Peripheral.storeCtrl_pack, hunpack, ChannelState.setPolarity]

/-! ## ENTIRE and ACTIVE -/

/-- The state after the first step of a period command: the new count is in place and one poll has been made (R114, R115). -/
def State.started (s : State) (f : CycleField) (c : Chan) (imm : Half) : State :=
  (s.setChan c ((s.chan c).setCycles f imm)).polled c 0 ⟨f, (s.chan c).cycles f⟩

/-- With a bound the spec allows, a period command's first step is a poll. -/
theorem exec_command (f : CycleField) (imm : Half) (hlimit : s.params.pollLimit ≠ some 0) :
    exec (f.command c imm) s = .next (s.started f c imm) := by
  have hpoll := pollOnce_polled (s := s.setChan c ((s.chan c).setCycles f imm)) (c := c)
    (r := ⟨f, (s.chan c).cycles f⟩) (by simpa using hlimit)
  cases f <;> exact hpoll

section Started

variable {f : CycleField} {imm : Half}

@[simp] theorem State.started_params : (s.started f c imm).params = s.params := by simp [started]

@[simp] theorem State.started_chan : (s.started f c imm).chan c = (s.chan c).setCycles f imm := by simp [started]

theorem State.started_chan_ne (h : d ≠ c) : (s.started f c imm).chan d = s.chan d := by
  rw [started, polled_chan, setChan_chan_ne _ _ _ _ h]

@[simp] theorem State.started_chan_otherChan : (s.started f c imm).chan (otherChan c) = s.chan (otherChan c) :=
  started_chan_ne (otherChan_ne c)

@[simp] theorem State.started_alive : (s.started f c imm).alive = s.alive := by simp [started]

@[simp] theorem State.started_phase : (s.started f c imm).phase =
    if s.hw.busy c then .poll c 1 ⟨f, (s.chan c).cycles f⟩ else .periodWrite c ⟨f, (s.chan c).cycles f⟩ := by
  simp [started]

@[simp] theorem State.started_hw : (s.started f c imm).hw = s.hw := by simp [started]

@[simp] theorem State.started_cmds : (s.started f c imm).cmds = s.cmds := by simp [started]

@[simp] theorem State.started_sched : (s.started f c imm).sched = s.sched := by simp [started]

@[simp] theorem State.started_results : (s.started f c imm).results = s.results := by simp [started]

@[simp] theorem State.started_portLog :
    (s.started f c imm).portLog = s.portLog ++ [.read s.params.ctrlAddr s.hw.ctrlRead] := by
  simp [started]

end Started

/-- The period write of a ready channel, with its frame (R105). -/
theorem step_periodWrite_effect (hp : s.params.wellFormed = true) (hturn : s.BlocksTurn turns)
    (hphase : s.phase = .periodWrite c r) (hready : s.hw.busy c = false) :
    ∃ t, step s = .next t ∧ State.Completes { s with sched := turns } t ⟨.ok, .unit, .nothing⟩ ∧
      t.ch0 = s.ch0 ∧ t.ch1 = s.ch1 ∧ t.alive = s.alive ∧
      t.hw = s.hw.storePeriod c (periodPack (s.chan c).activeCycles (s.chan c).totalCycles) ∧
      t.portLog = s.portLog ++
        [.write (s.params.periodAddr c) (periodPack (s.chan c).activeCycles (s.chan c).totalCycles)] :=
  ⟨_, step_periodWrite hp hturn hphase hready, ⟨rfl, rfl, rfl, rfl, rfl⟩, rfl, rfl, rfl, rfl, rfl⟩

/-- The first step of ENTIRE or ACTIVE, and the period write that follows if it showed the channel ready (R114, R115). -/
theorem exec_command_effect (s : State) (f : CycleField) (c : Chan) (imm : Half) (hp : s.params.wellFormed = true) :
    ∃ t, exec (f.command c imm) s = .next t ∧
      t.chan c = (s.chan c).setCycles f imm ∧ t.chan (otherChan c) = s.chan (otherChan c) ∧
      t.alive = s.alive ∧ t.hw = s.hw ∧ t.results = s.results ∧ t.cmds = s.cmds ∧ t.sched = s.sched ∧ t.params = s.params ∧
      t.portLog = s.portLog ++ [.read s.params.ctrlAddr s.hw.ctrlRead] ∧
      (s.hw.busy c = true → t.phase = .poll c 1 ⟨f, (s.chan c).cycles f⟩) ∧
      (s.hw.busy c = false → t.phase = .periodWrite c ⟨f, (s.chan c).cycles f⟩ ∧
        ∀ rest, t.BlocksTurn rest → ∃ u, step t = .next u ∧ State.Completes { s with sched := rest } u ⟨.ok, .unit, .nothing⟩ ∧
          u.alive = s.alive ∧ u.chan c = (s.chan c).setCycles f imm ∧ u.chan (otherChan c) = s.chan (otherChan c) ∧
          u.hw = s.hw.storePeriod c
            (periodPack ((s.chan c).setCycles f imm).activeCycles ((s.chan c).setCycles f imm).totalCycles) ∧
          u.portLog = s.portLog ++ [.read s.params.ctrlAddr s.hw.ctrlRead, .write (s.params.periodAddr c)
            (periodPack ((s.chan c).setCycles f imm).activeCycles ((s.chan c).setCycles f imm).totalCycles)]) := by
  refine ⟨_, exec_command f imm (Params.limit_pos hp), by simp, by simp, by simp, by simp, by simp, by simp, by simp,
    by simp, by simp, fun hbusy => by simp [hbusy], fun hready => ?_⟩
  have hphase : (s.started f c imm).phase = .periodWrite c ⟨f, (s.chan c).cycles f⟩ := by simp [hready]
  refine ⟨hphase, fun turns hturn => ?_⟩
  obtain ⟨u, hu, hdone, h0, h1, halive, hhw, hlog⟩ :=
    step_periodWrite_effect (by simpa using hp) hturn hphase (by simpa using hready)
  have hchan := State.chan_congr h0 h1
  refine ⟨u, hu, ⟨hdone.phase, ?_, ?_, hdone.sched, ?_⟩, ?_, ?_, ?_, ?_, ?_⟩
  · simpa using hdone.results
  · simpa using hdone.cmds
  · simpa using hdone.params
  · simpa using halive
  · simpa using hchan c
  · simpa using hchan (otherChan c)
  · simpa using hhw
  · simpa using hlog

/-- Settles O33: `exec_command_effect` for the total count. -/
theorem entireWritesThePeriodOrWaits : Obligations.EntireWritesThePeriodOrWaits := by
  unfold Obligations.EntireWritesThePeriodOrWaits
  intro s c imm hp
  exact exec_command_effect s .total c imm hp

/-- Settles O34: `exec_command_effect` for the active count. -/
theorem activeWritesThePeriodOrWaits : Obligations.ActiveWritesThePeriodOrWaits := by
  unfold Obligations.ActiveWritesThePeriodOrWaits
  intro s c imm hp
  exact exec_command_effect s .active c imm hp

/-! ## The steps of a command in progress -/

/-- In phase `Poll(c, k)`, the block's step is a turn of the loop (R100). -/
theorem step_poll (hp : s.params.wellFormed = true) (hturn : s.BlocksTurn turns) (hphase : s.phase = .poll c k r) :
    step s = pollOnce c k r { s with sched := turns } := by
  rw [step_block hp hturn, blockStep]
  simp only [hphase]

/-- Below the bound, the block's step in phase `Poll(c, k)` is one more poll (R100). -/
theorem step_polled (hp : s.params.wellFormed = true) (hturn : s.BlocksTurn turns) (hphase : s.phase = .poll c k r)
    (hlimit : s.params.pollLimit ≠ some k) : step s = .next (State.polled { s with sched := turns } c k r) :=
  (step_poll hp hturn hphase).trans (pollOnce_polled hlimit)

/-- At the bound, the block's step in phase `Poll(c, k)` is the timeout (R104). -/
theorem step_timeout (hp : s.params.wellFormed = true) (hturn : s.BlocksTurn turns) (hphase : s.phase = .poll c k r)
    (hlimit : s.params.pollLimit = some k) :
    step s = .next ((State.setChan { s with sched := turns } c ((s.chan c).restore r)).finish
      ⟨.hardwareTimeout, .unit, .channel c⟩) := by
  rw [step_poll hp hturn hphase, pollOnce_timeout (by exact hlimit)]
  cases c <;> rfl

/-- Settles O44: in phase `Poll(c, k)` the step is `step_timeout` at the bound and `step_polled` below it, and the period write is
`step_periodWrite_effect`. -/
theorem pollingStep : Obligations.PollingStep := by
  unfold Obligations.PollingStep
  intro s c r turns hp hturn
  refine ⟨fun k hphase => ⟨fun hlimit => ?_, step_polled hp hturn hphase⟩, step_periodWrite_effect hp hturn⟩
  refine ⟨_, step_timeout hp hturn hphase hlimit, ⟨rfl, by simp, by simp, by simp, by simp⟩, ?_⟩
  refine ⟨by simp, ?_, by simp, by simp, by simp⟩
  rw [State.finish_chan, State.setChan_chan_otherChan]
  cases c <;> rfl

/-- In phase `snapshot`, the block's step is the next read (R123). -/
theorem step_snapshot {q : SnapshotReads} (hp : s.params.wellFormed = true) (hturn : s.BlocksTurn turns)
    (hphase : s.phase = .snapshot q) : step s = snapshotStep q { s with sched := turns } := by
  rw [step_block hp hturn, blockStep]
  simp only [hphase]

theorem step_snapshot_ctrl {v : Word} (hp : s.params.wellFormed = true) (hturn : s.BlocksTurn turns)
    (hphase : s.phase = .snapshot (.ctrl v)) : step s = .next { s with
      sched := turns
      phase := .snapshot (.period0 v s.hw.period0)
      portLog := s.portLog ++ [.read s.params.periodAddr0 s.hw.period0] } :=
  step_snapshot hp hturn hphase

theorem step_snapshot_period0 {v p0 : Word} (hp : s.params.wellFormed = true) (hturn : s.BlocksTurn turns)
    (hphase : s.phase = .snapshot (.period0 v p0)) : step s = .next { s with
      sched := turns
      phase := .snapshot (.period1 v p0 s.hw.period1)
      portLog := s.portLog ++ [.read s.params.periodAddr1 s.hw.period1] } :=
  step_snapshot hp hturn hphase

/-- The fourth read ends the command with the record of what was read (R123). -/
theorem step_snapshot_period1 {v p0 p1 : Word} (hp : s.params.wellFormed = true) (hturn : s.BlocksTurn turns)
    (hphase : s.phase = .snapshot (.period1 v p0 p1)) :
    step s = .next (State.finish
      { s with sched := turns, portLog := s.portLog ++ [.read s.params.pinmuxAddr s.hw.pinmux] }
      ⟨.ok, .snapshot ⟨v, unpack v, p0, p1, periodUnpack p0, periodUnpack p1, s.hw.pinmux⟩, .nothing⟩) :=
  step_snapshot hp hturn hphase

/-- Settles O41: the first read is `execSnapshot_reads`, and there is an equation for each further one; if nobody else moves, the four
follow each other and read the same peripheral. -/
theorem snapshotReadsTheFourRegisters : Obligations.SnapshotReadsTheFourRegisters := by
  unfold Obligations.SnapshotReadsTheFourRegisters
  refine ⟨fun s => ?accepted, fun s turns hp hturn => ?further, fun s hp hsched => ?run⟩
  case accepted =>
    exact ⟨execSnapshot_reads s, busyBit_ctrlRead (c := .ch0) s.hw, busyBit_ctrlRead (c := .ch1) s.hw⟩
  case further =>
    refine ⟨fun v => step_snapshot_ctrl hp hturn, fun v p0 => step_snapshot_period0 hp hturn, fun v p0 p1 hphase => ?_⟩
    exact ⟨_, step_snapshot_period1 hp hturn hphase, ⟨rfl, rfl, rfl, rfl, rfl⟩, rfl, rfl, rfl, rfl, rfl⟩
  case run =>
    have hturn (t : State) (ht : t.sched = []) : t.BlocksTurn [] := .inl ⟨ht, rfl⟩
    refine ⟨_, _, execSnapshot_reads s,
      (run_next 2 (step_snapshot_ctrl (by exact hp) (hturn _ (by exact hsched)) rfl)).trans <|
      (run_next 1 (step_snapshot_period0 (by exact hp) (hturn _ rfl) rfl)).trans <|
      (run_next 0 (step_snapshot_period1 (by exact hp) (hturn _ rfl) rfl)).trans (run_zero _),
      ⟨rfl, rfl, rfl, hsched.symm, rfl⟩, rfl, rfl, rfl, rfl, ?_⟩
    simp

end Sys2Proof.Machine
end

section
/-! Runs of a period command: the hang, the timeout and the wait that ends (43_period_protocol.md R100 to R105). -/

namespace Sys2Proof.Machine

variable {s t u : State} {c : Chan} {k : Nat} {r : Rollback} {f : CycleField} {imm : Half} {w : Word} {cmds : List Word}
  {rest turns : List Turn}

/-- An ENTIRE and an ACTIVE alike are the command of a cycle count. -/
theorem exists_command (h : decode w = .ok (.entire c imm) ∨ decode w = .ok (.active c imm)) :
    ∃ f, decode w = .ok (CycleField.command f c imm) :=
  h.elim (fun h => ⟨.total, h⟩) fun h => ⟨.active, h⟩

/-- The state in which a fetched word is carried out. -/
def State.fetched (s : State) (w : Word) (cmds : List Word) (turns : List Turn) : State :=
  { s with cmds := cmds, sched := turns, phase := .exec w }

@[simp] theorem State.fetched_params : (s.fetched w cmds turns).params = s.params := rfl

@[simp] theorem State.fetched_chan : (s.fetched w cmds turns).chan c = s.chan c := by cases c <;> rfl

@[simp] theorem State.fetched_alive : (s.fetched w cmds turns).alive = s.alive := rfl

@[simp] theorem State.fetched_hw : (s.fetched w cmds turns).hw = s.hw := rfl

@[simp] theorem State.fetched_cmds : (s.fetched w cmds turns).cmds = cmds := rfl

@[simp] theorem State.fetched_sched : (s.fetched w cmds turns).sched = turns := rfl

@[simp] theorem State.fetched_results : (s.fetched w cmds turns).results = s.results := rfl

@[simp] theorem State.fetched_portLog : (s.fetched w cmds turns).portLog = s.portLog := rfl

/-- A period command that is next on CMD starts in the block's next step (R114, R115). -/
theorem step_command (hf : s.Fetches w cmds) (hturn : s.BlocksTurn turns) (halive : s.alive = true)
    (hw : decode w = .ok (f.command c imm)) : step s = .next ((s.fetched w cmds turns).started f c imm) := by
  rw [step_fetches hf hturn, carryOut_decodes (by exact halive) hw]
  exact exec_command f imm (Params.limit_pos hf.params)

/-- `n` steps lead from `s` to `t`. -/
def Runs (n : Nat) (s t : State) : Prop := core.run n s = .next t

theorem Runs.zero (s : State) : Runs 0 s s := run_zero s

theorem Runs.one (h : step s = .next t) : Runs 1 s t := run_next 0 h

theorem Runs.trans {a b : Nat} (h : Runs a s t) (h' : Runs b t u) : Runs (a + b) s u := (run_add a b s t h).trans h'

/-! ## A flag that stays set -/

/-- `s` after `m` busy polls from `Poll(c, k)`: `m` reads, and nothing else has changed (R100). -/
def State.afterPolls (s : State) (c : Chan) (k m : Nat) (r : Rollback) : State :=
  { s with
    phase := .poll c (k + m) r
    portLog := s.portLog ++ List.replicate m (.read s.params.ctrlAddr s.hw.ctrlRead) }

@[simp] theorem State.afterPolls_params {m : Nat} : (s.afterPolls c k m r).params = s.params := rfl

@[simp] theorem State.afterPolls_chan {m : Nat} {d : Chan} : (s.afterPolls c k m r).chan d = s.chan d := by
  cases d <;> rfl

@[simp] theorem State.afterPolls_alive {m : Nat} : (s.afterPolls c k m r).alive = s.alive := rfl

@[simp] theorem State.afterPolls_phase {m : Nat} : (s.afterPolls c k m r).phase = .poll c (k + m) r := rfl

@[simp] theorem State.afterPolls_hw {m : Nat} : (s.afterPolls c k m r).hw = s.hw := rfl

@[simp] theorem State.afterPolls_cmds {m : Nat} : (s.afterPolls c k m r).cmds = s.cmds := rfl

@[simp] theorem State.afterPolls_sched {m : Nat} : (s.afterPolls c k m r).sched = s.sched := rfl

@[simp] theorem State.afterPolls_results {m : Nat} : (s.afterPolls c k m r).results = s.results := rfl

@[simp] theorem State.afterPolls_portLog {m : Nat} : (s.afterPolls c k m r).portLog =
    s.portLog ++ List.replicate m (.read s.params.ctrlAddr s.hw.ctrlRead) := rfl

/-- Below the bound, with the peripheral silent and the flag set, the block polls and polls (R103). -/
theorem runs_polls (hp : s.params.wellFormed = true) (hsched : s.sched = []) (hphase : s.phase = .poll c k r)
    (hbusy : s.hw.busy c = true) (m : Nat) (hlimit : ∀ j < m, s.params.pollLimit ≠ some (k + j)) :
    Runs m s (s.afterPolls c k m r) := by
  induction m with
  | zero =>
    have hsame : s.afterPolls c k 0 r = s := by
      rw [State.afterPolls, Nat.add_zero, ← hphase, List.replicate_zero, List.append_nil]
    rw [hsame]
    exact .zero s
  | succ m ih =>
    have hstep : step (s.afterPolls c k m r) = .next (State.polled _ c (k + m) r) :=
      step_polled hp (.inl ⟨hsched, rfl⟩) rfl (hlimit m (by omega))
    have hmore : State.polled { s.afterPolls c k m r with sched := [] } c (k + m) r = s.afterPolls c k (m + 1) r := by
      simp [State.polled, State.afterPolls, State.logTx, hbusy, hsched, List.replicate_succ', Nat.add_assoc]
    exact (ih fun j hj => hlimit j (by omega)).trans (.one (hmore ▸ hstep))

/-- A period command that meets a set flag, with the peripheral silent: after `m + 1` steps below the bound it has made `m + 1`
reads and waits (R100, R103). -/
theorem runs_command_busy (hf : s.Fetches w cmds) (hsched : s.sched = []) (halive : s.alive = true)
    (hw : decode w = .ok (f.command c imm)) (hbusy : s.hw.busy c = true) (m : Nat)
    (hlimit : ∀ j < m, s.params.pollLimit ≠ some (1 + j)) :
    Runs (1 + m) s (((s.fetched w cmds []).started f c imm).afterPolls c 1 m ⟨f, (s.chan c).cycles f⟩) := by
  have hstart := Runs.one (step_command hf (.inl ⟨hsched, rfl⟩) halive hw)
  refine hstart.trans (runs_polls ?_ (by simp) (by simp [hbusy]) ?_ m ?_)
  · simpa using hf.params
  · simpa using hbusy
  · simpa using hlimit

/-- Settles O46: without a bound `runs_command_busy` holds for every number of steps. -/
theorem stuckBusyFlagHangsForEver : Obligations.StuckBusyFlagHangsForEver := by
  unfold Obligations.StuckBusyFlagHangsForEver
  intro m s w cmds c imm hf hsched halive hw hunbounded hbusy
  obtain ⟨f, hw⟩ := exists_command hw
  have hrun := runs_command_busy hf hsched halive hw hbusy m (by simp [hunbounded])
  rw [Nat.add_comm 1 m] at hrun
  refine ⟨_, _, hrun, by rw [State.afterPolls_phase, Nat.add_comm 1 m], ?_⟩
  simp [List.replicate_succ]

/-- Settles O47: `runs_command_busy` up to the bound, then `step_timeout`, which takes the new count back. -/
theorem boundedWaitTimesOutWithoutEffect : Obligations.BoundedWaitTimesOutWithoutEffect := by
  unfold Obligations.BoundedWaitTimesOutWithoutEffect
  intro n s w cmds c imm hf hsched halive hw hbound hbusy
  obtain ⟨f, hw⟩ := exists_command hw
  have hpos : n ≠ 0 := fun h0 => Params.limit_pos hf.params (h0 ▸ hbound)
  obtain ⟨m, rfl⟩ : ∃ m, n = 1 + m := Nat.exists_eq_add_of_le (Nat.one_le_iff_ne_zero.mpr hpos)
  have hrun := runs_command_busy hf hsched halive hw hbusy m (by simp [hbound]; omega)
  generalize hu : ((s.fetched w cmds []).started f c imm).afterPolls c 1 m ⟨f, (s.chan c).cycles f⟩ = u at hrun
  have hphase : u.phase = .poll c (1 + m) ⟨f, (s.chan c).cycles f⟩ := by simp [← hu]
  have hstop := step_timeout (s := u) (turns := []) (by simpa [← hu] using hf.params) (.inl ⟨by simp [← hu], rfl⟩) hphase
    (by simpa [← hu] using hbound)
  have hback (d : Chan) : (State.setChan { u with sched := [] } c
      ((u.chan c).restore ⟨f, (s.chan c).cycles f⟩)).chan d = s.chan d := by
    by_cases hd : d = c
    · subst hd
      simp [← hu]
    · rw [State.setChan_chan_ne _ _ _ _ hd]
      have hother : u.chan d = s.chan d := by
        simp [← hu, State.started_chan_ne hd]
      cases d <;> exact hother
  refine ⟨_, hrun.trans (.one hstop), ⟨rfl, ?_, ?_, ?_, ?_⟩, hback .ch0, hback .ch1, ?_, ?_, ?_⟩ <;>
    simp [← hu, hsched, List.replicate_succ, Nat.add_comm 1 m]

/-! ## A wait that ends -/

/-- `t` differs from `s` at most in the phase, the turns, the peripheral and the reads of the PORT log: what a wait leaves alone. -/
structure State.Waited (s t : State) : Prop where
  params : t.params = s.params
  chan : ∀ d, t.chan d = s.chan d
  alive : t.alive = s.alive
  cmds : t.cmds = s.cmds
  results : t.results = s.results
  writes : t.portLog.filter PortTx.isWrite = s.portLog.filter PortTx.isWrite

theorem State.Waited.refl (s : State) : s.Waited s := ⟨rfl, fun _ => rfl, rfl, rfl, rfl, rfl⟩

theorem State.Waited.trans (h : s.Waited t) (h' : t.Waited u) : s.Waited u where
  params := h'.params.trans h.params
  chan d := (h'.chan d).trans (h.chan d)
  alive := h'.alive.trans h.alive
  cmds := h'.cmds.trans h.cmds
  results := h'.results.trans h.results
  writes := h'.writes.trans h.writes

/-- The turn is a move of the peripheral that leaves channel `c`'s flag at `b` while the block is in phase `ph` (R39, R40, R102). -/
def Turn.KeepsFlag (x : Turn) (ph : Phase) (c : Chan) (b : Bool) : Prop :=
  ∃ m, x = .peripheral m ∧ (b = true → m ≠ .dropBusy c) ∧ (b = false → m ≠ .raiseBusy c ∨ ∃ r, ph = .periodWrite c r)

theorem State.movedHw_busy_of_keepsFlag {m : PeripheralMove} (h : (Turn.peripheral m).KeepsFlag s.phase c (s.hw.busy c)) :
    (s.movedHw m).busy c = s.hw.busy c := by
  obtain ⟨m', hm, hdrop, hraise⟩ := h
  cases hm
  rcases s.movedHw_busy m c with hsame | ⟨rfl, -, hphase, hset⟩ | ⟨rfl, hclear⟩
  · exact hsame
  · cases hbusy : s.hw.busy c
    · rcases hraise hbusy with hne | ⟨r, hr⟩
      · exact absurd rfl hne
      · exact absurd hr (hphase r)
    · exact hset
  · cases hbusy : s.hw.busy c
    · exact hclear
    · exact absurd rfl (hdrop hbusy)

/-- A turn of the peripheral, as a run: nothing of the block moves. -/
theorem runs_peripheral_one {m : PeripheralMove} (hp : s.params.wellFormed = true) (hsched : s.sched = .peripheral m :: rest) :
    ∃ t, Runs 1 s t ∧ s.Waited t ∧ t.sched = rest ∧ t.phase = s.phase ∧ t.hw = s.movedHw m :=
  ⟨_, .one (step_peripheral hp hsched), ⟨rfl, State.chan_congr rfl rfl, rfl, rfl, rfl, rfl⟩, rfl, rfl, rfl⟩

/-- A poll below the bound, as a run: one read, and the next phase. -/
theorem runs_polled_one (hp : s.params.wellFormed = true) (hsched : s.sched = .block :: rest) (hphase : s.phase = .poll c k r)
    (hlimit : s.params.pollLimit ≠ some k) :
    ∃ t, Runs 1 s t ∧ s.Waited t ∧ t.sched = rest ∧
      t.phase = (if s.hw.busy c then .poll c (k + 1) r else .periodWrite c r) ∧ t.hw = s.hw :=
  ⟨_, .one (step_polled hp (.inr hsched) hphase hlimit),
    ⟨rfl, State.chan_congr rfl rfl, rfl, rfl, rfl, by simp [List.filter_append, PortTx.isWrite]⟩, rfl, rfl, rfl⟩

/-- Turns of the peripheral that leave the flag alone, one after another. -/
theorem runs_peripheral (ts : List Turn) {s : State} (hp : s.params.wellFormed = true) (hsched : s.sched = ts ++ rest)
    (hts : ∀ x ∈ ts, x.KeepsFlag s.phase c (s.hw.busy c)) :
    ∃ t, Runs ts.length s t ∧ s.Waited t ∧ t.sched = rest ∧ t.phase = s.phase ∧ t.hw.busy c = s.hw.busy c := by
  induction ts generalizing s with
  | nil => exact ⟨s, .zero s, .refl s, hsched, rfl, rfl⟩
  | cons x ts ih =>
    have hx := hts x List.mem_cons_self
    obtain ⟨m, rfl, -⟩ := id hx
    obtain ⟨t, hrun, hwait, hsched', hphase, hhw⟩ := runs_peripheral_one hp hsched
    have hbusy : t.hw.busy c = s.hw.busy c := hhw ▸ State.movedHw_busy_of_keepsFlag hx
    obtain ⟨u, hrest, hwait', hdone, hphase', hbusy'⟩ := ih (s := t) (hwait.params ▸ hp) hsched' fun y hy => by
      rw [hphase, hbusy]
      exact hts y (List.mem_cons_of_mem _ hy)
    refine ⟨u, ?_, hwait.trans hwait', hdone, hphase'.trans hphase, hbusy'.trans hbusy⟩
    rw [List.length_cons, Nat.add_comm]
    exact hrun.trans hrest

/-- While the flag stays set and the bound is not reached, the block polls at each of its turns, whatever else the peripheral does
(R100). -/
theorem runs_wait (ts : List Turn) {s : State} {k : Nat} (hp : s.params.wellFormed = true) (hsched : s.sched = ts ++ rest)
    (hphase : s.phase = .poll c k r) (hbusy : s.hw.busy c = true)
    (hts : ∀ x ∈ ts, x = .block ∨ ∃ m, x = .peripheral m ∧ m ≠ .dropBusy c)
    (hlimit : ∀ n, s.params.pollLimit = some n → k + ts.count .block ≤ n) :
    ∃ t, Runs ts.length s t ∧ s.Waited t ∧ t.sched = rest ∧ t.phase = .poll c (k + ts.count .block) r ∧
      t.hw.busy c = true := by
  induction ts generalizing s k with
  | nil => exact ⟨s, .zero s, .refl s, hsched, hphase, hbusy⟩
  | cons x ts ih =>
    have htail (y : Turn) (hy : y ∈ ts) := hts y (List.mem_cons_of_mem _ hy)
    rw [List.length_cons, Nat.add_comm]
    rcases hts x List.mem_cons_self with rfl | ⟨m, rfl, hm⟩
    · rw [List.count_cons_self, Nat.add_comm _ 1, ← Nat.add_assoc] at hlimit ⊢
      have hbelow : s.params.pollLimit ≠ some k := fun hk => by
        have hle := hlimit k hk
        omega
      obtain ⟨t, hrun, hwait, hsched', hphase', hhw⟩ := runs_polled_one hp hsched hphase hbelow
      rw [if_pos hbusy] at hphase'
      obtain ⟨u, hrest, hwait', hdone⟩ :=
        ih (hwait.params ▸ hp) hsched' hphase' (hhw ▸ hbusy) htail (hwait.params ▸ hlimit)
      exact ⟨u, hrun.trans hrest, hwait.trans hwait', hdone⟩
    · have hcount : (Turn.peripheral m :: ts).count .block = ts.count .block := List.count_cons_of_ne (by simp)
      rw [hcount] at hlimit ⊢
      obtain ⟨t, hrun, hwait, hsched', hphase', hhw⟩ := runs_peripheral_one hp hsched
      have hkeeps : (Turn.peripheral m).KeepsFlag s.phase c (s.hw.busy c) :=
        ⟨m, rfl, fun _ => hm, fun h => by simp [hbusy] at h⟩
      have hbusy' : t.hw.busy c = true := hhw ▸ (State.movedHw_busy_of_keepsFlag hkeeps).trans hbusy
      obtain ⟨u, hrest, hwait', hdone⟩ :=
        ih (hwait.params ▸ hp) hsched' (hphase'.trans hphase) hbusy' htail (hwait.params ▸ hlimit)
      exact ⟨u, hrun.trans hrest, hwait.trans hwait', hdone⟩

/-- Once the flag is dropped and not raised again before the next poll, that poll shows the channel ready, and it stays ready until
the period write is the block's next step (R102). -/
theorem runs_ready {us vs : List Turn} (hp : s.params.wellFormed = true)
    (hsched : s.sched = Turn.peripheral (.dropBusy c) :: (us ++ Turn.block :: (vs ++ rest))) (hphase : s.phase = .poll c k r)
    (hlimit : s.params.pollLimit ≠ some k) (hus : ∀ x ∈ us, ∃ m, x = .peripheral m ∧ m ≠ .raiseBusy c)
    (hvs : ∀ x ∈ vs, ∃ m, x = .peripheral m) :
    ∃ t, Runs (1 + us.length + 1 + vs.length) s t ∧ s.Waited t ∧ t.sched = rest ∧ t.phase = .periodWrite c r ∧
      t.hw.busy c = false := by
  obtain ⟨s1, hrun1, hwait1, hsched1, hphase1, hhw1⟩ := runs_peripheral_one hp hsched
  have hready1 : s1.hw.busy c = false := hhw1 ▸ s.hw.setBusy_busy c false
  obtain ⟨s2, hrun2, hwait2, hsched2, hphase2, hready2⟩ := runs_peripheral (c := c) us (hwait1.params ▸ hp) hsched1
    fun x hx => by
      obtain ⟨m, rfl, hm⟩ := hus x hx
      exact ⟨m, rfl, fun h => by simp [hready1] at h, fun _ => .inl hm⟩
  have hwait12 := hwait1.trans hwait2
  obtain ⟨s3, hrun3, hwait3, hsched3, hphase3, hhw3⟩ := runs_polled_one (hwait12.params ▸ hp) hsched2
    (hphase2.trans (hphase1.trans hphase)) (hwait12.params ▸ hlimit)
  rw [hready2, hready1, if_neg Bool.false_ne_true] at hphase3
  have hready3 : s3.hw.busy c = false := hhw3 ▸ hready2.trans hready1
  have hwait13 := hwait12.trans hwait3
  obtain ⟨s4, hrun4, hwait4, hsched4, hphase4, hready4⟩ := runs_peripheral (c := c) vs (hwait13.params ▸ hp) hsched3
    fun x hx => by
      obtain ⟨m, rfl⟩ := hvs x hx
      exact ⟨m, rfl, fun h => by simp [hready3] at h, fun _ => .inr ⟨r, hphase3⟩⟩
  exact ⟨s4, ((hrun1.trans hrun2).trans hrun3).trans hrun4, hwait13.trans hwait4, hsched4, hphase4.trans hphase3,
    hready4.trans hready3⟩

/-- A period command that meets a set flag starts its wait at the block's first turn, whatever else the peripheral does before
(R114, R115). -/
theorem runs_start {ts : List Turn} (hf : s.Fetches w cmds) (hsched : s.sched = ts ++ Turn.block :: rest)
    (halive : s.alive = true) (hw : decode w = .ok (f.command c imm)) (hbusy : s.hw.busy c = true)
    (hts : ∀ x ∈ ts, ∃ m, x = .peripheral m ∧ m ≠ .dropBusy c) :
    ∃ t, Runs (ts.length + 1) s t ∧ (State.setChan { s with cmds := cmds } c ((s.chan c).setCycles f imm)).Waited t ∧
      t.sched = rest ∧ t.phase = .poll c 1 ⟨f, (s.chan c).cycles f⟩ ∧ t.hw.busy c = true := by
  obtain ⟨s1, hrun1, hwait1, hsched1, hphase1, hbusy1⟩ := runs_peripheral (c := c) ts hf.params hsched fun x hx => by
    obtain ⟨m, rfl, hm⟩ := hts x hx
    exact ⟨m, rfl, fun _ => hm, fun h => by simp [hbusy] at h⟩
  have hf1 : s1.Fetches w cmds := ⟨hwait1.params ▸ hf.params, hphase1.trans hf.phase, hwait1.cmds.trans hf.cmds⟩
  have hstart := step_command hf1 (.inr hsched1) (hwait1.alive.trans halive) hw
  refine ⟨_, hrun1.trans (.one hstart), ⟨?_, fun d => ?_, ?_, ?_, ?_, ?_⟩, ?_, ?_, ?_⟩
  · simpa using hwait1.params
  · by_cases hd : d = c
    · subst hd
      simp [hwait1.chan]
    · rw [State.started_chan_ne hd, State.setChan_chan_ne _ _ _ _ hd, State.fetched_chan, hwait1.chan]
      cases d <;> rfl
  · simpa using hwait1.alive
  · simp
  · simpa using hwait1.results
  · simpa [List.filter_append, PortTx.isWrite] using hwait1.writes
  · simp
  · simp [hbusy1, hbusy, hwait1.chan]
  · simpa using hbusy1.trans hbusy

/-- Settles O48: the turns up to the block's first are `runs_start`, those of the wait `runs_wait`, those from the drop on
`runs_ready`; the last turn is the period write, of the counts as the command has set them. -/
theorem waitEndsWhenTheFlagClears : Obligations.WaitEndsWhenTheFlagClears := by
  unfold Obligations.WaitEndsWhenTheFlagClears
  intro j s w cmds c imm ts us vs rest hf halive hdecode hsched hcount hts hus hvs hlimit hbusy
  obtain ⟨f, hw⟩ := exists_command hdecode
  obtain ⟨ps, qs, rfl, hps⟩ := List.eq_append_cons_of_mem (List.count_pos_iff.mp (show 0 < ts.count Turn.block by omega))
  have hqs : qs.count Turn.block = j := by
    rw [List.count_append, List.count_cons_self, List.count_eq_zero_of_not_mem hps] at hcount
    omega
  obtain ⟨s1, hrun1, hwait1, hsched1, hphase1, hbusy1⟩ := runs_start hf (by simpa using hsched) halive hw hbusy fun x hx =>
    (hts x (by simp [hx])).resolve_left fun h => hps (h ▸ hx)
  have hparams1 : s1.params = s.params := by simpa using hwait1.params
  obtain ⟨s2, hrun2, hwait2, hsched2, hphase2, -⟩ := runs_wait qs (hparams1 ▸ hf.params) hsched1 hphase1 hbusy1
    (fun x hx => hts x (by simp [hx])) fun n hn => by
      have hlt := hlimit n (hparams1 ▸ hn)
      omega
  have hparams2 : s2.params = s.params := hwait2.params.trans hparams1
  obtain ⟨s3, hrun3, hwait3, hsched3, hphase3, hready3⟩ := runs_ready (hparams2 ▸ hf.params) hsched2 hphase2
    (fun hn => by
      have hlt := hlimit _ (hparams2 ▸ hn)
      omega) hus hvs
  have hwait := (hwait1.trans hwait2).trans hwait3
  have hparams3 : s3.params = s.params := hwait3.params.trans hparams2
  obtain ⟨t, hstep, hdone, h0, h1, halive', hhw, hlog⟩ :=
    step_periodWrite_effect (hparams3 ▸ hf.params) (.inr hsched3) hphase3 hready3
  have hrun := ((hrun1.trans hrun2).trans hrun3).trans (.one hstep)
  have hlen : (ps ++ Turn.block :: qs).length + us.length + vs.length + 3 =
      ps.length + 1 + qs.length + (1 + us.length + 1 + vs.length) + 1 := by
    simp only [List.length_append, List.length_cons]
    omega
  have hchan (d : Chan) : t.chan d = (State.setChan { s with cmds := cmds } c ((s.chan c).setCycles f imm)).chan d :=
    (State.chan_congr h0 h1 d).trans (hwait.chan d)
  have hown : t.chan c = (s.chan c).setCycles f imm := by simpa using hchan c
  have hown3 : s3.chan c = t.chan c := (State.chan_congr h0 h1 c).symm
  refine ⟨t, hlen ▸ hrun, hdone.phase, hdone.sched, ?_, ?_, ?_, fun he => ?_, fun ha => ?_, ?_, ?_, ?_⟩
  · exact hdone.cmds.trans (by simpa using hwait.cmds)
  · exact halive'.trans (hwait.alive.trans (by simpa using halive))
  · rw [hdone.results]
    simpa using hwait.results
  · obtain rfl : f = .total := by
      cases f
      · rfl
      · cases he.symm.trans hw
    exact hown
  · obtain rfl : f = .active := by
      cases f
      · cases ha.symm.trans hw
      · rfl
    exact hown
  · rw [hchan, State.setChan_chan_otherChan]
    cases c <;> rfl
  · rw [hhw, Peripheral.storePeriod_period, hown3]
  · rw [hlog, hown3, hparams3, List.filter_append, hwait.writes]
    simp [PortTx.isWrite]

end Sys2Proof.Machine
end

section
/-! Two machines that differ only in what their registers hold make the same steps (42_control_codec.md R96). -/

namespace Sys2Proof.Machine

variable {s s' : State} {c : Chan} {k : Nat} {r : Rollback} {a a' : Completion} {w : Word}

/-! ## Alike machines stay alike under the block's operations -/

theorem State.Alike.setChan (h : s.Alike s') (c : Chan) (x : ChannelState) : (s.setChan c x).Alike (s'.setChan c x) where
  params := by simpa using h.params
  chan d := by
    by_cases hd : d = c
    · subst hd
      simp
    · simp [setChan_chan_ne _ _ _ _ hd, h.chan]
  alive := by simpa using h.alive
  phase := by simpa using h.phase
  busy := by simpa using h.busy
  written := by simpa using h.written
  cmds := by simpa using h.cmds
  index := by simpa using h.index
  sched := by simpa using h.sched
  results := by simpa using h.results
  writes := by simpa using h.writes

/-- The results may differ in the record of a SNAPSHOT only. -/
theorem State.Alike.finish (h : s.Alike s') (ha : a'.withoutWords = a.withoutWords) : (s.finish a).Alike (s'.finish a') where
  params := h.params
  chan := by simpa using h.chan
  alive := h.alive
  phase := rfl
  busy := h.busy
  written := h.written
  cmds := h.cmds
  index := congrArg (· + 1) h.index
  sched := h.sched
  results := by simp [h.results, ha]
  writes := h.writes

/-- A control write sends the image of the records, which are the same, and touches no flag (R38, R125). -/
theorem State.Alike.ctrlWrite (h : s.Alike s') : s.ctrlWrite.Alike s'.ctrlWrite where
  params := h.params
  chan := by simpa using h.chan
  alive := h.alive
  phase := h.phase
  busy := by simpa using h.busy
  written c := by cases c; exacts [h.written .ch0, h.written .ch1]
  cmds := h.cmds
  index := h.index
  sched := h.sched
  results := h.results
  writes := by
    have h0 : s'.ch0 = s.ch0 := h.chan .ch0
    have h1 : s'.ch1 = s.ch1 := h.chan .ch1
    simp [List.filter_append, h.writes, h.params, h0, h1]

/-- A period write of the same value, to the same channel. -/
theorem State.Alike.writePeriod (h : s.Alike s') (c : Chan) (v : Word) : (s.writePeriod c v).Alike (s'.writePeriod c v) where
  params := h.params
  chan := by simpa using h.chan
  alive := h.alive
  phase := h.phase
  busy := by simpa using h.busy
  written d := by
    by_cases hd : d = c
    · subst hd
      simp [Peripheral.storePeriod_written]
    · simp [Peripheral.storePeriod_written_ne _ _ hd, h.written]
  cmds := h.cmds
  index := h.index
  sched := h.sched
  results := h.results
  writes := by simp [List.filter_append, h.writes, h.params]

/-- A read shows each machine its own register, and the phase may hold what was read. -/
theorem State.Alike.read (h : s.Alike s') {tx tx' : PortTx} (htx : tx.isWrite = false) (htx' : tx'.isWrite = false)
    {p p' : Phase} (hp : p'.withoutWords = p.withoutWords) :
    State.Alike { s.logTx tx with phase := p } { s'.logTx tx' with phase := p' } where
  params := h.params
  chan := fun c => by cases c; exacts [h.chan .ch0, h.chan .ch1]
  alive := h.alive
  phase := hp
  busy := h.busy
  written := h.written
  cmds := h.cmds
  index := h.index
  sched := h.sched
  results := h.results
  writes := by simp [List.filter_append, h.writes, htx, htx']

/-- SHUTDOWN's records are set channel by channel (R124). -/
theorem State.Alike.disabled (h : s.Alike s') : s.disabled.Alike s'.disabled := by
  have hset (s : State) : s.disabled =
      (s.setChan .ch0 ((s.chan .ch0).setEnabled false)).setChan .ch1 ((s.chan .ch1).setEnabled false) := rfl
  rw [hset s, hset s', h.chan, h.chan]
  exact (h.setChan .ch0 _).setChan .ch1 _

theorem State.Alike.dead (h : s.Alike s') : State.Alike { s with alive := false } { s' with alive := false } :=
  ⟨h.params, h.chan, rfl, h.phase, h.busy, h.written, h.cmds, h.index, h.sched, h.results, h.writes⟩

/-! ## Outcomes -/

/-- Where one machine answers a next state, the other answers one that is alike. -/
def FollowsAlike (o o' : Host.Outcome State Fault Refusal) : Prop := ∀ t, o = .next t → ∃ t', o' = .next t' ∧ t.Alike t'

theorem State.Alike.follows {t t' : State} (h : t.Alike t') : FollowsAlike (.next t) (.next t') :=
  fun _ ht => ⟨t', rfl, next_inj ht ▸ h⟩

theorem State.Alike.complete (h : s.Alike s') (v : Value) : FollowsAlike (complete v s) (complete v s') :=
  (h.finish rfl).follows

theorem State.Alike.raise (h : s.Alike s') (e : Status) (info : ErrorInfo) : FollowsAlike (raise e info s) (raise e info s') :=
  (h.finish rfl).follows

theorem State.Alike.pollOnce (h : s.Alike s') (c : Chan) (k : Nat) (r : Rollback) :
    FollowsAlike (pollOnce c k r s) (pollOnce c k r s') := by
  by_cases hk : s.params.pollLimit = some k
  · rw [pollOnce_timeout hk, pollOnce_timeout (h.params ▸ hk), h.chan]
    exact ((h.setChan c _).finish rfl).follows
  · rw [pollOnce_reads hk, pollOnce_reads (h.params ▸ hk), h.busy]
    exact (h.read rfl rfl rfl).follows

theorem State.Alike.periodWrite (h : s.Alike s') (c : Chan) : FollowsAlike (periodWrite c s) (periodWrite c s') := by
  cases hbusy : s.hw.busy c
  · rw [periodWrite_ready hbusy, periodWrite_ready ((h.busy c).trans hbusy), h.chan]
    exact ((h.writePeriod c _).finish rfl).follows
  · rw [periodWrite_refused hbusy]
    exact fun t ht => by cases ht

/-- A command reads the records, its operand, the bound and the channel's own flag, and nothing else of the machine. -/
theorem State.Alike.exec (h : s.Alike s') (i : Instr) : FollowsAlike (exec i s) (exec i s') := by
  have chanWrite (c : Chan) (g : ChannelState → ChannelState) : FollowsAlike
      (Machine.complete .unit (s.setChan c (g (s.chan c))).ctrlWrite)
      (Machine.complete .unit (s'.setChan c (g (s'.chan c))).ctrlWrite) := by
    rw [h.chan]
    exact (h.setChan c _).ctrlWrite.complete .unit
  have periodCommand (f : CycleField) (c : Chan) (imm : Half) :
      FollowsAlike (Machine.periodCommand f c imm s) (Machine.periodCommand f c imm s') := by
    unfold Machine.periodCommand
    rw [h.chan]
    exact (h.setChan c _).pollOnce c 0 _
  have read (c : Chan) (v : ChannelState → Value) :
      FollowsAlike (Machine.complete (v (s.chan c)) s) (Machine.complete (v (s'.chan c)) s') := by
    rw [h.chan]
    exact h.complete _
  cases i with
  | run c imm =>
    simp only [Machine.exec, execRun]
    cases runOperand imm with
    | error e => exact h.raise e _
    | ok v => exact chanWrite c (·.setEnabled v)
  | pol c imm =>
    simp only [Machine.exec, execPol]
    cases polOperand imm with
    | error e => exact h.raise e _
    | ok v => exact chanWrite c (·.setPolarity v)
  | presc c imm =>
    simp only [Machine.exec, execPresc]
    cases prescOperand imm with
    | error e => exact h.raise e _
    | ok code =>
      simp only [setPrescale_code]
      exact chanWrite c ({ · with prescaleCode := code })
  | entire c imm => exact periodCommand .total c imm
  | active c imm => exact periodCommand .active c imm
  | freqWr c imm => exact h.raise .invalidRange _
  | rdRun c => exact read c fun x => .bit (b2n x.enabled)
  | rdPol c => exact read c fun x => .bit (b2n x.polarity)
  | rdPresc c => exact read c fun x => .code x.prescaleCode
  | rdEntire c => exact read c fun x => .count x.totalCycles
  | rdActive c => exact read c fun x => .count x.activeCycles
  | rdFreq c => exact read c fun x => .frequency (outputFrequency x.prescaleCode x.totalCycles)
  | snapshot =>
    rw [execSnapshot_reads, execSnapshot_reads]
    exact State.Alike.follows (h.read (tx := .read _ _) (tx' := .read _ _) rfl rfl rfl)
  | shutdown =>
    rw [execShutdown_eq, execShutdown_eq]
    exact (h.disabled.ctrlWrite.dead.finish rfl).follows

/-! ## Steps -/

/-- Without the words read so far, two phases are the same or both a SNAPSHOT's. -/
theorem Phase.eq_or_snapshot_of_withoutWords {p p' : Phase} (h : p'.withoutWords = p.withoutWords) :
    p' = p ∨ ∃ q q', p = .snapshot q ∧ p' = .snapshot q' := by
  have hsnapshot (q : SnapshotReads) : ∃ q', (Phase.snapshot q).withoutWords = .snapshot q' := by
    cases q <;> exact ⟨_, rfl⟩
  cases p with
  | snapshot q =>
    cases p' with
    | snapshot q' => exact .inr ⟨q, q', rfl, rfl⟩
    | idle | exec | poll | periodWrite =>
      obtain ⟨a, ha⟩ := hsnapshot q
      rw [ha] at h
      cases h
  | idle | exec | poll | periodWrite =>
    cases p' with
    | snapshot q' =>
      obtain ⟨a, ha⟩ := hsnapshot q'
      rw [ha] at h
      cases h
    | idle | exec | poll | periodWrite => exact .inl h

theorem State.Alike.carryOut (h : s.Alike s') (w : Word) : FollowsAlike (carryOut w s) (carryOut w s') := by
  cases halive : s.alive with
  | false =>
    rw [carryOut_dead halive]
    exact fun t ht => by cases ht
  | true =>
    have halive' := h.alive.trans halive
    cases hw : decode w with
    | ok i =>
      rw [carryOut_decodes halive hw, carryOut_decodes halive' hw]
      exact h.exec i
    | error e =>
      rw [carryOut_illegal halive hw, carryOut_illegal halive' hw]
      exact (h.finish rfl).follows

/-- Each further read of a SNAPSHOT shows each machine its own register; only the record at the end shows what was read (R123). -/
theorem State.Alike.snapshotStep (h : s.Alike s') {q q' : SnapshotReads}
    (hq : (Phase.snapshot q').withoutWords = (Phase.snapshot q).withoutWords) :
    FollowsAlike (snapshotStep q s) (snapshotStep q' s') := by
  cases q with
  | ctrl v =>
    cases q' with
    | ctrl v' => exact State.Alike.follows (h.read (tx := .read _ _) (tx' := .read _ _) rfl rfl rfl)
    | period0 | period1 => cases hq
  | period0 v a =>
    cases q' with
    | period0 v' a' => exact State.Alike.follows (h.read (tx := .read _ _) (tx' := .read _ _) rfl rfl rfl)
    | ctrl | period1 => cases hq
  | period1 v a b =>
    cases q' with
    | period1 v' a' b' =>
      have hread := h.read (tx := .read s.params.pinmuxAddr s.hw.pinmux)
        (tx' := .read s'.params.pinmuxAddr s'.hw.pinmux) rfl rfl h.phase
      refine State.Alike.follows (hread.finish ?_)
      rfl
    | ctrl | period0 => cases hq

theorem State.Alike.accept (h : s.Alike s') (w : Word) (rest : List Word) : (s.accept w rest).Alike (s'.accept w rest) :=
  ⟨h.params, by simpa using h.chan, h.alive, rfl, h.busy, h.written, rfl, h.index, h.sched, h.results, h.writes⟩

theorem State.Alike.with_sched (h : s.Alike s') (turns : List Turn) :
    State.Alike { s with sched := turns } { s' with sched := turns } :=
  ⟨h.params, fun c => by cases c; exacts [h.chan .ch0, h.chan .ch1], h.alive, h.phase, h.busy, h.written, h.cmds, h.index,
    rfl, h.results, h.writes⟩

theorem State.Alike.construct (h : s.Alike s') : s.construct.Alike s'.construct :=
  ⟨h.params, fun c => by cases c <;> rfl, rfl, rfl, h.busy, h.written, h.cmds, rfl, h.sched, h.results, h.writes⟩

theorem State.Alike.blockStep (h : s.Alike s') : FollowsAlike (blockStep s) (blockStep s') := by
  rcases Phase.eq_or_snapshot_of_withoutWords h.phase with hsame | ⟨q, q', hq, hq'⟩
  · have accepted {w : Word} {rest : List Word} (hacc : s.Accepts w rest) :
        FollowsAlike (Machine.blockStep s) (Machine.blockStep s') := by
      have hacc' : s'.Accepts w rest := by rwa [Accepts, hsame, h.cmds]
      rw [blockStep_accepts hacc, blockStep_accepts hacc']
      exact (h.accept w rest).carryOut w
    cases hphase : s.phase with
    | idle =>
      cases hcmds : s.cmds with
      | nil =>
        rw [blockStep_waits hphase hcmds, blockStep_waits (hsame.trans hphase) (h.cmds.trans hcmds)]
        exact h.follows
      | cons w rest => exact accepted (.inl ⟨hphase, hcmds⟩)
    | exec w => exact accepted (.inr ⟨hphase, rfl⟩)
    | poll c k r =>
      simp only [Machine.blockStep, hsame, hphase]
      exact h.pollOnce c k r
    | periodWrite c r =>
      simp only [Machine.blockStep, hsame, hphase]
      exact h.periodWrite c
    | snapshot q =>
      simp only [Machine.blockStep, hsame, hphase]
      exact h.snapshotStep rfl
  · simp only [Machine.blockStep, hq, hq']
    exact h.snapshotStep (by rw [← hq, ← hq', h.phase])

/-! ## The peripheral's turns -/

/-- A move does the same to the flags of two peripherals that have the same flags and the same record of period writes. -/
theorem Peripheral.move_busy_congr {p p' : Peripheral} (hbusy : ∀ c, p'.busy c = p.busy c)
    (hwritten : ∀ c, p'.written c = p.written c) (m : PeripheralMove) (c : Chan) : (p'.move m).busy c = (p.move m).busy c := by
  have hset (d : Chan) (b : Bool) : (p'.setBusy d b).busy c = (p.setBusy d b).busy c := by
    by_cases hd : c = d
    · subst hd
      simp
    · rw [setBusy_busy_ne _ _ hd, setBusy_busy_ne _ _ hd, hbusy]
  cases m with
  | raiseBusy d =>
    simp only [move, hwritten]
    split
    · exact hset d true
    · exact hbusy c
  | dropBusy d => exact hset d false
  | drawPadding v => cases c; exacts [hbusy .ch0, hbusy .ch1]
  | drawPinmux v => cases c; exacts [hbusy .ch0, hbusy .ch1]

theorem State.Alike.allows (h : s.Alike s') (m : PeripheralMove) : s'.allows m = s.allows m := by
  cases m with
  | raiseBusy c =>
    rw [Bool.eq_iff_iff, allows_raiseBusy_iff, allows_raiseBusy_iff]
    rcases Phase.eq_or_snapshot_of_withoutWords h.phase with hsame | ⟨q, q', hq, hq'⟩
    · rw [hsame]
    · simp [hq, hq']
  | dropBusy | drawPadding | drawPinmux => rfl

theorem State.Alike.peripheral (h : s.Alike s') (m : PeripheralMove) (turns : List Turn) :
    State.Alike { s with sched := turns, hw := s.movedHw m } { s' with sched := turns, hw := s'.movedHw m } where
  params := h.params
  chan c := by cases c; exacts [h.chan .ch0, h.chan .ch1]
  alive := h.alive
  phase := h.phase
  busy c := by
    show (s'.movedHw m).busy c = (s.movedHw m).busy c
    rw [movedHw, movedHw, h.allows]
    split
    · exact Peripheral.move_busy_congr h.busy h.written m c
    · exact h.busy c
  written c := ((s'.movedHw_period m c).2.trans (h.written c)).trans (s.movedHw_period m c).2.symm
  cmds := h.cmds
  index := h.index
  sched := rfl
  results := h.results
  writes := h.writes

/-- Settles O56: whoever's turn it is, alike machines stay alike: `State.Alike.peripheral`, `State.Alike.construct`, and for the block
`State.Alike.blockStep`. -/
theorem registerContentsNeverDriveTheBlock : Obligations.RegisterContentsNeverDriveTheBlock := by
  unfold Obligations.RegisterContentsNeverDriveTheBlock
  intro s s' t h hstep
  obtain ⟨hp, ⟨m, turns, hsched, rfl⟩ | ⟨turns, hsched, rfl⟩ | ⟨turns, hturn, hblock⟩⟩ := step_cases hstep
  · exact ⟨_, step_peripheral (h.params ▸ hp) (h.sched.trans hsched), h.peripheral m turns⟩
  · exact ⟨_, step_construct (h.params ▸ hp) (h.sched.trans hsched), (h.with_sched turns).construct⟩
  · have hturn' : s'.BlocksTurn turns := by rwa [State.BlocksTurn, h.sched]
    obtain ⟨t', ht', halike⟩ := (h.with_sched turns).blockStep t hblock
    exact ⟨t', (step_block (h.params ▸ hp) hturn').trans ht', halike⟩

end Sys2Proof.Machine
end

section
/-! Only the channel's own busy flag holds a period command (43_period_protocol.md R100, R102). -/

namespace Sys2Proof.Machine

variable {s t : State} {hw' : Peripheral} {c : Chan} {k : Nat} {r : Rollback} {w : Word} {rest : List Word}

/-- The block, its results and its writes are the same in `t'` as in `t`; the peripherals may differ. -/
structure State.SameBlock (t t' : State) : Prop where
  ch0 : t'.ch0 = t.ch0
  ch1 : t'.ch1 = t.ch1
  alive : t'.alive = t.alive
  phase : t'.phase = t.phase
  results : t'.results = t.results
  index : t'.index = t.index
  cmds : t'.cmds = t.cmds
  writes : t'.portLog.filter PortTx.isWrite = t.portLog.filter PortTx.isWrite

/-- A turn of the loop looks at the channel's own flag and nothing else of the peripheral (R100). -/
theorem pollOnce_sameBlock (h : pollOnce c k r s = .next t) (hbusy : hw'.busy c = s.hw.busy c) :
    ∃ t', pollOnce c k r { s with hw := hw' } = .next t' ∧ t.SameBlock t' := by
  by_cases hk : s.params.pollLimit = some k
  · obtain rfl := next_inj ((pollOnce_timeout hk).symm.trans h)
    refine ⟨_, pollOnce_timeout hk, ?_⟩
    cases c <;> exact ⟨rfl, rfl, rfl, rfl, rfl, rfl, rfl, rfl⟩
  · obtain rfl := next_inj ((pollOnce_polled hk).symm.trans h)
    refine ⟨_, pollOnce_polled hk, rfl, rfl, rfl, ?_, rfl, rfl, rfl, ?_⟩
    · simp [hbusy]
    · simp [List.filter_append, PortTx.isWrite]

theorem periodWrite_sameBlock (h : periodWrite c s = .next t) (hbusy : hw'.busy c = s.hw.busy c) :
    ∃ t', periodWrite c { s with hw := hw' } = .next t' ∧ t.SameBlock t' := by
  obtain ⟨hready, rfl⟩ := periodWrite_cases h
  refine ⟨_, periodWrite_ready (hbusy.trans hready), ?_⟩
  cases c <;> exact ⟨rfl, rfl, rfl, rfl, rfl, rfl, rfl, by simp [List.filter_append]⟩

theorem exec_command_sameBlock {f : CycleField} {imm : Half} (h : exec (f.command c imm) s = .next t)
    (hbusy : hw'.busy c = s.hw.busy c) :
    ∃ t', exec (f.command c imm) { s with hw := hw' } = .next t' ∧ t.SameBlock t' := by
  have hexec (s : State) : exec (f.command c imm) s = periodCommand f c imm s := by cases f <;> rfl
  rw [hexec] at h ⊢
  have hset : State.setChan { s with hw := hw' } c ((State.chan { s with hw := hw' } c).setCycles f imm) =
      { s.setChan c ((s.chan c).setCycles f imm) with hw := hw' } := by cases c <;> rfl
  have hchan : State.chan { s with hw := hw' } c = s.chan c := by cases c <;> rfl
  rw [periodCommand, hset, hchan]
  exact pollOnce_sameBlock h (by simpa using hbusy)

theorem State.CarriesOut.accepts (h : s.CarriesOut t w) : ∃ rest, s.Accepts w rest :=
  h.elim (fun h => ⟨t.cmds, .inl h⟩) fun h => ⟨s.cmds, .inr ⟨h, rfl⟩⟩

/-- Settles O57: a step of the block for a period command of `c` is a turn of the loop, the period write, or the command's first
poll; each looks at the flag of `c` alone. -/
theorem onlyTheOwnBusyFlagHoldsAPeriodCommand : Obligations.OnlyTheOwnBusyFlagHoldsAPeriodCommand := by
  unfold Obligations.OnlyTheOwnBusyFlagHoldsAPeriodCommand
  intro s t hw' c turns hturn hstep hcommand hbusy
  have hp := (step_cases hstep).1
  have hturn' : State.BlocksTurn { s with hw := hw' } turns := hturn
  suffices h : ∃ t', step { s with hw := hw' } = .next t' ∧ t.SameBlock t' by
    obtain ⟨t', ht', h⟩ := h
    exact ⟨t', ht', h.ch0, h.ch1, h.alive, h.phase, h.results, h.index, h.cmds, h.writes⟩
  rw [step_block hp hturn] at hstep
  rw [step_block (s := { s with hw := hw' }) hp hturn']
  rcases hcommand with (⟨k, r, hphase⟩ | ⟨r, hphase⟩) | ⟨w, imm, hcarries, hdecode⟩
  · simp only [blockStep, hphase] at hstep ⊢
    exact pollOnce_sameBlock hstep hbusy
  · simp only [blockStep, hphase] at hstep ⊢
    exact periodWrite_sameBlock hstep hbusy
  · obtain ⟨f, hw⟩ := exists_command hdecode
    obtain ⟨rest, hacc⟩ := hcarries.accepts
    have hacc1 : State.Accepts { s with sched := turns } w rest := hacc
    have hacc2 : State.Accepts { s with sched := turns, hw := hw' } w rest := hacc
    rw [blockStep_accepts hacc1] at hstep
    have halive : s.alive = true := (carryOut_cases hstep).1
    rw [carryOut_decodes (by exact halive) hw] at hstep
    rw [blockStep_accepts hacc2, carryOut_decodes (by exact halive) hw]
    exact exec_command_sameBlock hstep hbusy

end Sys2Proof.Machine
end

section
/-! The status codes and the text endpoints (60_exceptions.md R130; 30_encoding.md R61). -/

namespace Sys2Proof.Machine

/-- Settles O59: the codes are read off `Status.code`. -/
theorem statusCodesAreAsListed : Obligations.StatusCodesAreAsListed := by
  unfold Obligations.StatusCodesAreAsListed
  rfl

/-- A number of the endpoint's type is the operand of its command (R131). -/
theorem Endpoint.write_number {e : Endpoint} {bound n : Nat} {c : Chan} {i : Instr} (hbound : e.typeBound = some bound)
    (hn : n < bound) (hi : e.writeCommand c (BitVec.ofNat 16 n) = some i) : e.write c (.number n) = .issue i := by
  simp [write, hbound, Written.operand, hn, hi]

/-- A number out of the endpoint's type is the front end's own ParseError (R61, R131). -/
theorem Endpoint.write_tooLarge {e : Endpoint} {bound n : Nat} (c : Chan) (hbound : e.typeBound = some bound) (hn : bound ≤ n) :
    e.write c (.number n) = .parseError (.number n) := by
  simp [write, hbound, Written.operand, Nat.not_lt.mpr hn]

/-- Text that is no number is the front end's own ParseError wherever there is a write (R61). -/
theorem Endpoint.write_text {e : Endpoint} (c : Chan) (s : String) (he : e ≠ .hardware) :
    e.write c (.text s) = .parseError (.text s) := by
  cases e with
  | hardware => exact absurd rfl he
  | run | polarity | prescale | entirecycles | activecycles | freqperiod => rfl

theorem Status.writeReply_accepted_iff (st : Status) : st.writeReply = .accepted ↔ st = .ok := by
  cases st <;> simp [writeReply]

/-- Settles O60: the table of commands and the texts are read off the definitions; the bounds are `Endpoint.write_number` and
`Endpoint.write_tooLarge`. -/
theorem endpointsMapToCommands : Obligations.EndpointsMapToCommands := by
  unfold Obligations.EndpointsMapToCommands
  refine ⟨fun c n => ⟨rfl, rfl, rfl, rfl, rfl, rfl, rfl, fun hn => ?_, fun hn e he => ?_, fun hn => ?_, fun hn e he => ?_⟩,
    fun c e s w => ⟨Endpoint.write_text c s, rfl⟩, fun fe st i w => ⟨st.writeReply_accepted_iff, rfl, rfl⟩,
    fun fe b code v n r => ⟨rfl, rfl, rfl, rfl, rfl, rfl⟩⟩
  · exact ⟨Endpoint.write_number rfl hn rfl, Endpoint.write_number rfl hn rfl⟩
  · have hbound : e.typeBound = some 256 := by
      simp only [List.mem_cons, List.not_mem_nil, or_false] at he
      rcases he with rfl | rfl <;> rfl
    exact Endpoint.write_tooLarge c hbound hn
  · exact ⟨Endpoint.write_number rfl hn rfl, Endpoint.write_number rfl hn rfl, Endpoint.write_number rfl hn rfl,
      Endpoint.write_number rfl hn rfl⟩
  · have hbound : e.typeBound = some 65536 := by
      simp only [List.mem_cons, List.not_mem_nil, or_false] at he
      rcases he with rfl | rfl | rfl | rfl <;> rfl
    exact Endpoint.write_tooLarge c hbound hn

end Sys2Proof.Machine
end
